-- ==== Sys2Proof/Word.lean ====
section
/-! DEFINITION. The words of the block: unsigned integers of 8, 16 and 32 bits (R10) and the 31-bit register
address of the widest request word (R60, R98). -/

namespace Sys2Proof

/-- `u8`, one byte of either link (R10). -/
abbrev Byte := BitVec 8

/-- `u16` (R10). -/
abbrev U16 := BitVec 16

/-- `u32` (R10). -/
abbrev U32 := BitVec 32

/-- A register address: the request word less its direction bit, at most 31 bits (R60, R98). -/
abbrev RegAddr := BitVec 31

end Sys2Proof
end

