-- ==== Sys2Proof/Config.lean ====
section
/-! DEFINITION. What is fixed at construction: the parameters of R6, the OPEN parameters and the decided numbers of
R7, the arguments of `Construct` (R291), and the model's one free value. -/

namespace Sys2Proof

/-- `REQ_WIDTH`, the bytes of a request word: 1, 2 or 4 (R7, R96). OPEN: every rule holds for every value. -/
inductive ReqWidth where
  | w1
  | w2
  | w4
deriving DecidableEq, Repr

/-- The request word's size in bytes (R96). -/
def ReqWidth.bytes : ReqWidth → Nat
  | .w1 => 1
  | .w2 => 2
  | .w4 => 4

/-- One more than the highest address the word holds: the address field has 6, 15 or 31 bits (R60, R98). -/
def ReqWidth.addrLimit : ReqWidth → Nat
  | .w1 => 64
  | .w2 => 32768
  | .w4 => 2147483648

/-- `ATTN_MODE`, when the attention line de-asserts (R7, R243, R244). OPEN. -/
inductive AttnMode where
  | clearOnEmpty
  | clearOnRead
deriving DecidableEq, Repr

/-- `LINK_PARAMS`, "opaque pass-through, not interpreted by the core" (R6). No rule reads it. -/
structure LinkParams where
  baud : Nat
  stopBits : Nat
  parity : Nat
deriving DecidableEq, Repr

/-- The numbers of R7 the source does not give: one table, so that an audit of the real numbers changes one place
(R7, U3). -/
structure Codes where
  chConfig : Byte
  chControl : Byte
  chAudio : Byte
  chAcm : Byte
  addrStatus : RegAddr
  addrMessage : RegAddr
  addrAudioSource : RegAddr
  addrAudioBlockSize : RegAddr
  addrAudioData : RegAddr
  statusSize : Nat
  flagErrBit : Nat
  flagMsgBit : Nat
  flagAudioBit : Nat
  audioSourceSize : Nat
  blockSizeSize : Nat
  msgWriteLen : Nat
  msgMagicOffset : Nat
  msgAddrOffset : Nat
  filler : Byte
deriving DecidableEq, Repr

/-- The defaults of R7 (D1, D6 to D10); `MSG_WRITE_LEN` is `MSG_MAX` (D8). -/
def Codes.standard (msgMax : Nat) : Codes where
  chConfig := 0
  chControl := 1
  chAudio := 2
  chAcm := 3
  addrStatus := 0
  addrMessage := 1
  addrAudioSource := 2
  addrAudioBlockSize := 3
  addrAudioData := 4
  statusSize := 4
  flagErrBit := 0
  flagMsgBit := 1
  flagAudioBit := 2
  audioSourceSize := 6
  blockSizeSize := 4
  msgWriteLen := msgMax
  msgMagicOffset := 0
  msgAddrOffset := 4
  filler := 0

/-- The four channel bytes (R93). -/
def Codes.channels (c : Codes) : List Byte := [c.chConfig, c.chControl, c.chAudio, c.chAcm]

/-- The five register addresses (R74). -/
def Codes.addresses (c : Codes) : List RegAddr :=
  [c.addrStatus, c.addrMessage, c.addrAudioSource, c.addrAudioBlockSize, c.addrAudioData]

/-- The three flag bit positions (R41). -/
def Codes.flagBits (c : Codes) : List Nat := [c.flagErrBit, c.flagMsgBit, c.flagAudioBit]

/-- The constraints on the numbers alone. R7 states the first three lines; the others are DEDUCED from the rules that use
the numbers: distinct bits of a u32 word (R240), data counts in which each field fits (R43, R44, R101, R173) and a
magic field inside a written message (R196). Log entry 9. -/
abbrev Codes.Wf (wd : ReqWidth) (c : Codes) : Prop :=
  c.channels.Nodup ∧
  c.addresses.Nodup ∧
  (∀ n ∈ c.addresses.map BitVec.toNat, n < wd.addrLimit) ∧
  c.flagBits.Nodup ∧ (∀ b ∈ c.flagBits, b < 32) ∧
  4 ≤ c.statusSize ∧ 6 ≤ c.audioSourceSize ∧ 4 ≤ c.blockSizeSize ∧
  c.msgMagicOffset + 4 ≤ c.msgWriteLen

/-- The configuration `cfg` of a constructed device (R6, R7, R291). -/
structure Cfg where
  remoteAddr : U32
  remotePort : U16
  magic : U32
  msgMin : Nat
  msgMax : Nat
  defaultBlock : U32
  link : LinkParams
  reqWidth : ReqWidth
  attnMode : AttnMode
  codes : Codes
deriving DecidableEq, Repr

/-- What every constructed device's configuration satisfies (R6, R7, R291); `MSG_WRITE_LEN` "lies in
`[MSG_MIN, MSG_MAX]`" (R196). -/
abbrev Cfg.Wf (c : Cfg) : Prop :=
  4 ≤ c.msgMin ∧ c.msgMin % 4 = 0 ∧ 4 ≤ c.msgMax ∧ c.msgMax % 4 = 0 ∧ c.msgMin ≤ c.msgMax ∧
  0 < c.defaultBlock.toNat ∧ c.defaultBlock.toNat % 4 = 0 ∧ c.codes.Wf c.reqWidth ∧
  c.msgMin ≤ c.codes.msgWriteLen ∧ c.codes.msgWriteLen ≤ c.msgMax

/-- The arguments of `Construct`, as a caller may give them (R6, R291): the address and the port are naturals, so
that `BadAddress` and `BadPort` can be stated. -/
structure Params where
  hostEndpoint : Bool
  frameEndpoint : Bool
  remoteAddr : Nat
  remotePort : Nat
  magic : U32
  msgMin : Nat
  msgMax : Nat
  defaultBlock : U32
  link : LinkParams
  reqWidth : ReqWidth
  attnMode : AttnMode
  codes : Codes
deriving DecidableEq, Repr

/-- The failures of `Construct` (R291). -/
inductive ConfigError where
  | missingEndpoint
  | badPort
  | badAddress
  | badMinSize
  | badMaxSize
  | minAboveMax
  | badDefaultBlock
deriving DecidableEq, Repr

/-- The source's scenario configuration (S6 of 95_test_vectors.md): the configuration of `State.reset`. DESIGN
CHOICE, unsafe (log entry 3): the spec names no default for the parameters of R6, and leaves `REQ_WIDTH` and
`ATTN_MODE` open. -/
def Cfg.scenario : Cfg where
  remoteAddr := 0x0A000001
  remotePort := 9000
  magic := 0xA5A5A5A5
  msgMin := 4
  msgMax := 64
  defaultBlock := 16
  link := { baud := 0, stopBits := 0, parity := 0 }
  reqWidth := .w1
  attnMode := .clearOnEmpty
  codes := Codes.standard 64

/-- FREE VALUE (log entry 6): the `len` field of an outbound frame whose payload has `n ≥ 2^32` bytes. R47 gives a
frame a u32 `len` equal to its payload's length, and no such u32 exists. -/
opaque Config.freeFrameLen (n : Nat) : U32

end Sys2Proof
end

