-- ==== Sys2Proof/Syntax.lean ====
section
/-! DEFINITION. The operations of the block: one constructor for each mnemonic of opcode_table.json. The three rows
of one request (formats REQ8, REQ16, REQ32) are one constructor at the three values of its width operand. -/

namespace Sys2Proof

/-- The channels a frame can belong to (R12, R93). -/
inductive Channel where
  | config
  | control
  | audio
  | acm
deriving DecidableEq, Repr

/-- The host-addressable registers (R40). -/
inductive Reg where
  | status
  | message
  | audioSource
  | audioBlockSize
  | audioData
deriving DecidableEq, Repr

/-- The direction of a transaction (R27, R98). -/
inductive Dir where
  | read
  | write
deriving DecidableEq, Repr

/-- A decoded frame header (R23, R91). -/
structure Header where
  len : U32
  addr : U32
  port : U16
  chan : Byte
deriving DecidableEq, Repr

/-- A frame (R47). -/
structure Frame where
  chan : Channel
  len : U32
  addr : U32
  port : U16
  payload : List Byte
deriving DecidableEq, Repr

/-- "payload length always equals the declared header length" (R47). -/
abbrev Frame.Wf (f : Frame) : Prop := f.payload.length = f.len.toNat

/-- The operations of opcode_table.json. -/
inductive Instr where
  /-- RD_STATUS (R191), rows REQ8, REQ16, REQ32. -/
  | rdStatus (wd : ReqWidth)
  /-- WR_STATUS (R195). -/
  | wrStatus (wd : ReqWidth)
  /-- RD_MESSAGE (R192). -/
  | rdMessage (wd : ReqWidth)
  /-- WR_MESSAGE (R196). -/
  | wrMessage (wd : ReqWidth)
  /-- RD_AUDIO_SOURCE (R194). -/
  | rdAudioSource (wd : ReqWidth)
  /-- WR_AUDIO_SOURCE (R197). -/
  | wrAudioSource (wd : ReqWidth)
  /-- RD_AUDIO_BLOCK_SIZE (R194). -/
  | rdAudioBlockSize (wd : ReqWidth)
  /-- WR_AUDIO_BLOCK_SIZE (R199). -/
  | wrAudioBlockSize (wd : ReqWidth)
  /-- RD_AUDIO_DATA (R193). -/
  | rdAudioData (wd : ReqWidth)
  /-- WR_AUDIO_DATA (R195). -/
  | wrAudioData (wd : ReqWidth)
  /-- REQ_UNDEFINED (R163): a request word in either direction whose address is none of the five. -/
  | reqUndefined (wd : ReqWidth) (dir : Dir) (addr : RegAddr)
  /-- FRAME_CONFIG (R221): a complete frame on the Config channel; `len` is the payload's length. -/
  | frameConfig (addr : U32) (port : U16) (payload : List Byte)
  /-- FRAME_CONTROL (R222). -/
  | frameControl (addr : U32) (port : U16) (payload : List Byte)
  /-- FRAME_AUDIO (R223). -/
  | frameAudio (addr : U32) (port : U16) (payload : List Byte)
  /-- FRAME_ACM (R224). -/
  | frameAcm (addr : U32) (port : U16) (payload : List Byte)
  /-- FRAME_UNDEFINED (R143): a complete frame whose channel byte is none of the four. -/
  | frameUndefined (chan : Byte) (addr : U32) (port : U16) (payload : List Byte)
  /-- HOST_BYTE (R161). -/
  | hostByte (b : Byte)
  /-- HOST_FINISH (R171). -/
  | hostFinish
  /-- REMOTE_BYTE (R141). -/
  | remoteByte (b : Byte)
  /-- RESET (R290). -/
  | reset
  /-- SEND (R144). -/
  | send (f : Frame)
  /-- UNBLOCK (R169). -/
  | unblock
  /-- DISPATCH (R220). -/
  | dispatch (f : Frame)
  /-- COMPLETE (R168). -/
  | complete
  /-- UPDATE_ATTN (R242). -/
  | updateAttn (old new : U32) (statusRead : Bool)
  /-- ENC_U16 (R130). -/
  | encU16 (v : U16)
  /-- ENC_U32 (R131). -/
  | encU32 (v : U32)
  /-- DEC_U16 (R132). -/
  | decU16 (l : List Byte) (off : Nat)
  /-- DEC_U32 (R133). -/
  | decU32 (l : List Byte) (off : Nat)
  /-- CONSTRUCT (R291). -/
  | construct (p : Params)
deriving DecidableEq, Repr

end Sys2Proof
end

