-- ==== Sys2Proof/Machine/State.lean ====
section
/-! DEFINITION. The state of the block (10_state.md R22 to R37), its configuration, the outputs of its last step
(R9), the events waiting (log entry 1), the reset value, and the reasons a step can stop. -/

namespace Sys2Proof.Machine

/-- `TransactionStage` (R24). -/
inductive Stage where
  | awaitingRequest
  | awaitingData
  | stalled
deriving DecidableEq, Repr

/-- `AudioState` (R32). -/
inductive AudioState where
  | disconnected
  | connecting
  | connected
deriving DecidableEq, Repr

/-- Diagnostic events: every row of R261, the coordination errors of R263, and `ConfigAccepted` (R221). No rule
reads one (R4, R264; log entry 15). -/
inductive Diag where
  | undefinedAddress (a : RegAddr)
  | writeToReadOnly (r : Reg)
  | readOfWriteOnly (r : Reg)
  | nothingAvailable (r : Reg)
  | byteWhileStalled (b : Byte)
  | badBlockSize (v : U32)
  | blockSizeRounded (v n : U32)
  | undefinedChannel (c : Byte)
  | emptyConfig
  | repeatedConfig
  | controlWhileNotConnected
  | badMessageLength (n : U32)
  | badMagic
  | audioWhileNotConnected
  | badAcmLength (n : U32)
  | unexpectedAcm (st : AudioState) (code : Byte)
  | unblockWhileNotStalled
  | addressDecodeFailed (r : Reg)
  | configAccepted (payload : List Byte)
deriving DecidableEq, Repr

/-- FrameCodec state (R22, R23). -/
structure FrameCodec where
  acc : List Byte
  hdr : Option Header
deriving DecidableEq, Repr

/-- TransactionEngine state (R24 to R29). -/
structure Engine where
  stage : Stage
  req : List Byte
  reg : Reg
  dir : Dir
  remaining : Nat
  buf : List Byte
deriving DecidableEq, Repr

/-- DeviceCoordinator state (R31 to R36). -/
structure Coordinator where
  connected : Bool
  audio : AudioState
  err : Bool
  msgq : List Frame
  abuf : List Byte
  block : U32
deriving DecidableEq, Repr

/-- The value an INTERNAL codec operation returns to its caller. The model's own (log entry 5). -/
inductive Ret where
  | none
  | bytes (l : List Byte)
  | u16 (v : U16)
  | u32 (v : U32)
deriving DecidableEq, Repr

/-- The outputs of one step (R9): the reply byte (only of `HOST_BYTE`), the bytes emitted on the frame link, the
diagnostic events; and the model's own `ret`. -/
structure Output where
  reply : Option Byte
  tx : List Byte
  diag : List Diag
  ret : Ret
deriving DecidableEq, Repr

/-- No output. -/
def Output.empty : Output := { reply := none, tx := [], diag := [], ret := .none }

/-- The input events (R9). -/
inductive Event where
  | hostByte (b : Byte)
  | hostFinish
  | remoteByte (b : Byte)
  | reset
deriving DecidableEq, Repr

/-- The whole machine. `cfg` is fixed at construction (R6). `ack` and `attn` are the two output lines (R30, R37), true
for asserted. `out` holds the outputs of the last step (R9). `input` is the rest of the trace (R12), the model's own
field: the events still to reach the block, first one first (log entry 1). -/
structure State where
  cfg : Cfg
  fc : FrameCodec
  te : Engine
  ack : Bool
  dc : Coordinator
  attn : Bool
  out : Output
  input : List Event
deriving DecidableEq, Repr

/-- Why the machine stops with a fault. -/
inductive Fault where
  /-- Raised by exec of DEC_U16 and DEC_U32 when the offset and the width reach past the list: "a programming-error/
  fatal condition, never a recoverable error" (R135; log entry 7). No event raises it. Safe: the model stops. -/
  | outOfBounds
  /-- Raised by exec of CONSTRUCT with invalid parameters: "construction fails ... no device exists, no event can be
  applied" (R262, R291; log entry 12). Safe: the model stops and there is no device. -/
  | constructionFailed (e : ConfigError)
deriving DecidableEq, Repr

/-- Why an instruction has no meaning. -/
inductive Refusal where
  /-- Raised by an arm of exec whose instruction is not modelled yet; no arm is. Safe: the model stops. -/
  | notModelled (mnemonic : String)
deriving DecidableEq, Repr

/-- The state after construction with configuration `cfg` (R292 and the table of 10_state.md section 8). `te.reg` and
`te.dir` are "unspecified, unobservable" there; the suggested STATUS and Read are taken (R26, R27; DESIGN CHOICE, log
entry 4). -/
def State.init (cfg : Cfg) : State where
  cfg := cfg
  fc := { acc := [], hdr := none }
  te := { stage := .awaitingRequest, req := [], reg := .status, dir := .read, remaining := 0, buf := [] }
  ack := false
  dc := { connected := false, audio := .disconnected, err := false, msgq := [], abuf := [], block := cfg.defaultBlock }
  attn := false
  out := Output.empty
  input := []

/-- The machine right after reset, with the source's scenario configuration (log entry 3) and no event waiting. -/
def State.reset : State := State.init Cfg.scenario

end Sys2Proof.Machine
end

