-- ==== Sys2Proof/Machine/Flags.lean ====
section
/-! DEFINITION. The status flags and the status word (R38, R240), and the attention line (R242 to R244). -/

namespace Sys2Proof.Machine

/-- `HasQueuedMessage <=> queue non-empty` (R38). -/
def State.hasQueuedMessage (s : State) : Bool := !s.dc.msgq.isEmpty

/-- `HasAudioBlockReady <=> buffered byte count >= configured AudioBlockSize` (R38). -/
def State.hasAudioBlockReady (s : State) : Bool := decide (s.dc.block.toNat ≤ s.dc.abuf.length)

/-- One flag at its bit of the status word (R240). -/
def flagBit (b : Bool) (pos : Nat) : U32 := if b then 1#32 <<< pos else 0#32

/-- `flags(s)`, the status word (R240). -/
def State.flags (s : State) : U32 :=
  flagBit s.dc.err s.cfg.codes.flagErrBit
    ||| flagBit s.hasQueuedMessage s.cfg.codes.flagMsgBit
    ||| flagBit s.hasAudioBlockReady s.cfg.codes.flagAudioBit

/-- The level `UpdateAttn(old, new, status_read)` gives the line (R243, R244). -/
def attnNext (mode : AttnMode) (old new : U32) (statusRead attn : Bool) : Bool :=
  match mode with
  | .clearOnEmpty => decide (new ≠ 0)
  | .clearOnRead => if statusRead then false else if old = 0 ∧ new ≠ 0 then true else attn

/-- `UpdateAttn` (R242). -/
def State.updateAttn (s : State) (old new : U32) (statusRead : Bool) : State :=
  { s with attn := attnNext s.cfg.attnMode old new statusRead s.attn }

end Sys2Proof.Machine
end

