-- ==== Sys2Proof/Machine/BinaryCodec.lean ====
section
/-! DEFINITION. BinaryCodec (R130 to R136): little-endian integers, and rounding up to a multiple of 4. -/

namespace Sys2Proof

/-- The byte at an offset. Absent bytes read as 0: the total extension R135 allows (log entry 7). -/
def byteAt (l : List Byte) (off : Nat) : Byte := l.getD off 0

/-- `enc_u16` (R130). -/
def encU16 (v : U16) : List Byte := [v.extractLsb' 0 8, v.extractLsb' 8 8]

/-- `enc_u32` (R131). -/
def encU32 (v : U32) : List Byte :=
  [v.extractLsb' 0 8, v.extractLsb' 8 8, v.extractLsb' 16 8, v.extractLsb' 24 8]

/-- `dec_u16` (R132). -/
def decU16 (l : List Byte) (off : Nat) : U16 :=
  BitVec.ofNat 16 ((byteAt l off).toNat + 256 * (byteAt l (off + 1)).toNat)

/-- `dec_u32` (R133). -/
def decU32 (l : List Byte) (off : Nat) : U32 :=
  BitVec.ofNat 32 ((byteAt l off).toNat + 256 * (byteAt l (off + 1)).toNat
    + 65536 * (byteAt l (off + 2)).toNat + 16777216 * (byteAt l (off + 3)).toNat)

/-- `roundup4`, on naturals (R136 (e)). -/
def roundup4 (v : Nat) : Nat := if v % 4 = 0 then v else v + (4 - v % 4)

end Sys2Proof
end

