-- ==== Sys2Proof/WellFormed.lean ====
section
/-! DEFINITION. Which instruction terms stand for an operation of the spec, under the numbers `c` of R7. -/

namespace Sys2Proof

/-- The operands an operation admits. A request with a defined address needs no check; an undefined address fits its
field (R98) and is none of the five (R106); a payload fits the u32 length field (R90); an undefined channel is none
of the four (R109); a frame handed to SEND or DISPATCH has its declared length (R47); a decode stays in bounds
(R132, R133, R135); the numbers given to CONSTRUCT obey R7 and R196. -/
def Instr.wf (c : Codes) : Instr → Bool
  | .reqUndefined wd _ a => decide (a.toNat < wd.addrLimit ∧ a ∉ c.addresses)
  | .frameConfig _ _ p | .frameControl _ _ p | .frameAudio _ _ p | .frameAcm _ _ p => decide (p.length < 2 ^ 32)
  | .frameUndefined ch _ _ p => decide (ch ∉ c.channels ∧ p.length < 2 ^ 32)
  | .send f | .dispatch f => decide f.Wf
  | .decU16 l off => decide (off + 2 ≤ l.length)
  | .decU32 l off => decide (off + 4 ≤ l.length)
  | .construct p => decide (p.codes.Wf p.reqWidth ∧ p.msgMin ≤ p.codes.msgWriteLen ∧ p.codes.msgWriteLen ≤ p.msgMax)
  | .rdStatus _ | .wrStatus _ | .rdMessage _ | .wrMessage _ | .rdAudioSource _ | .wrAudioSource _
  | .rdAudioBlockSize _ | .wrAudioBlockSize _ | .rdAudioData _ | .wrAudioData _ => true
  | .hostByte _ | .hostFinish | .remoteByte _ | .reset => true
  | .unblock | .complete | .updateAttn _ _ _ | .encU16 _ | .encU32 _ => true

end Sys2Proof
end

