-- ==== Sys2Proof/Decode.lean ====
section
/-! DEFINITION. Decoding of request words (R96 to R99) and frames (R90, R91, R93), the encoder, and the host's view
of the opcode table. -/

namespace Sys2Proof

/-! ## Request words -/

/-- The assembled word `w` of the bytes `q` (R97): width 1 masks bit 7 off, widths 2 and 4 mask nothing. -/
def requestWord (wd : ReqWidth) (q : List Byte) : U32 :=
  match wd with
  | .w1 => (byteAt q 0 &&& 0x7F#8).setWidth 32
  | .w2 => (decU16 q 0).setWidth 32
  | .w4 => decU32 q 0

/-- `dir = w[0]`: 0 is Read, 1 is Write (R98). -/
def requestDir (w : U32) : Dir := if w.getLsbD 0 then .write else .read

/-- `address = w >> 1` (R98). -/
def requestAddr (w : U32) : RegAddr := w.extractLsb' 1 31

/-- AddressDecode (R99); `none` is an undefined address (R106). -/
def addressDecode (c : Codes) (a : RegAddr) : Option Reg :=
  if a = c.addrStatus then some .status
  else if a = c.addrMessage then some .message
  else if a = c.addrAudioSource then some .audioSource
  else if a = c.addrAudioBlockSize then some .audioBlockSize
  else if a = c.addrAudioData then some .audioData
  else none

/-- The request that a direction and a decoded address name (R100, R106). -/
def requestInstr (wd : ReqWidth) (dir : Dir) (a : RegAddr) : Option Reg → Instr
  | none => .reqUndefined wd dir a
  | some .status => match dir with
    | .read => .rdStatus wd
    | .write => .wrStatus wd
  | some .message => match dir with
    | .read => .rdMessage wd
    | .write => .wrMessage wd
  | some .audioSource => match dir with
    | .read => .rdAudioSource wd
    | .write => .wrAudioSource wd
  | some .audioBlockSize => match dir with
    | .read => .rdAudioBlockSize wd
    | .write => .wrAudioBlockSize wd
  | some .audioData => match dir with
    | .read => .rdAudioData wd
    | .write => .wrAudioData wd

/-- Why a byte list holds no complete word or frame. Every complete word and every complete frame decodes: an
undefined address or channel is an operation of its own (R163, R143). -/
inductive DecodeReject where
  /-- fewer than `REQ_WIDTH` bytes (R162) -/
  | requestIncomplete
  /-- fewer than 11 header bytes (R141) -/
  | headerIncomplete
  /-- fewer payload bytes than the header declares (R141) -/
  | payloadIncomplete
deriving DecidableEq, Repr

/-- What a decoder answers: an instruction and the bytes after it, or a rejection by name. -/
inductive Decoded where
  | instr (i : Instr) (rest : List Byte)
  | rejected (why : DecodeReject)
deriving DecidableEq, Repr

/-- The request at the head of the host stream, `wd` being the configured width (R97 to R99). -/
def decodeRequest (c : Codes) (wd : ReqWidth) (q : List Byte) : Decoded :=
  if q.length < wd.bytes then .rejected .requestIncomplete
  else
    let w := requestWord wd q
    .instr (requestInstr wd (requestDir w) (requestAddr w) (addressDecode c (requestAddr w))) (q.drop wd.bytes)

/-! ## Frames -/

/-- The header in 11 bytes (R91). -/
def decodeHeader (h : List Byte) : Header where
  len := decU32 h 0
  addr := decU32 h 4
  port := decU16 h 8
  chan := byteAt h 10

/-- The channel a header's channel byte names (R93); `none` is an undefined channel (R109). -/
def channelDecode (c : Codes) (b : Byte) : Option Channel :=
  if b = c.chConfig then some .config
  else if b = c.chControl then some .control
  else if b = c.chAudio then some .audio
  else if b = c.chAcm then some .acm
  else none

/-- The byte value of a channel (R93). -/
def channelCode (c : Codes) : Channel → Byte
  | .config => c.chConfig
  | .control => c.chControl
  | .audio => c.chAudio
  | .acm => c.chAcm

/-- The frame operation that a complete frame is (R141). -/
def frameInstr (c : Codes) (h : Header) (payload : List Byte) : Instr :=
  match channelDecode c h.chan with
  | some .config => .frameConfig h.addr h.port payload
  | some .control => .frameControl h.addr h.port payload
  | some .audio => .frameAudio h.addr h.port payload
  | some .acm => .frameAcm h.addr h.port payload
  | none => .frameUndefined h.chan h.addr h.port payload

/-- The size of a frame header (R90). -/
def headerSize : Nat := 11

/-- The frame at the head of the inbound frame stream (R90, R91, R141). -/
def decodeFrame (c : Codes) (l : List Byte) : Decoded :=
  if l.length < headerSize then .rejected .headerIncomplete
  else
    let h := decodeHeader l
    if l.length < headerSize + h.len.toNat then .rejected .payloadIncomplete
    else .instr (frameInstr c h ((l.drop headerSize).take h.len.toNat)) (l.drop (headerSize + h.len.toNat))

/-- The two streams bytes come from (R61, R62); the host stream with its configured request width. -/
inductive Link where
  | host (wd : ReqWidth)
  | frame
deriving DecidableEq, Repr

/-- The decoder, total on any bytes of either stream. -/
def decode (c : Codes) : Link → List Byte → Decoded
  | .host wd, l => decodeRequest c wd l
  | .frame, l => decodeFrame c l

/-! ## The encoder -/

/-- The direction bit: 0 is Read, 1 is Write (R98). -/
def dirBit : Dir → BitVec 1
  | .read => 0#1
  | .write => 1#1

/-- The word `w` of a direction and an address: `address << 1`, the direction in bit 0 (R98, R100). -/
def wordOf (dir : Dir) (a : RegAddr) : U32 := a ++ dirBit dir

/-- The bytes of a request word, bit 7 of a one-byte word 0 (R97, R100). -/
def encodeRequest (wd : ReqWidth) (dir : Dir) (a : RegAddr) : List Byte :=
  match wd with
  | .w1 => [(wordOf dir a).setWidth 8]
  | .w2 => encU16 ((wordOf dir a).setWidth 16)
  | .w4 => encU32 (wordOf dir a)

/-- The eleven header bytes (R92). -/
def encodeHeader (h : Header) : List Byte :=
  encU32 h.len ++ encU32 h.addr ++ encU16 h.port ++ [h.chan]

/-- The bytes of a frame operation with channel byte `ch` (R90, R92). -/
def encodeFrame (ch : Byte) (addr : U32) (port : U16) (payload : List Byte) : List Byte :=
  encodeHeader { len := BitVec.ofNat 32 payload.length, addr := addr, port := port, chan := ch } ++ payload

/-- The stream an operation's bytes travel on; rows of format EVENT and INTERNAL have no bit pattern (R113). -/
def Instr.link : Instr → Option Link
  | .rdStatus wd | .wrStatus wd | .rdMessage wd | .wrMessage wd | .rdAudioSource wd | .wrAudioSource wd
  | .rdAudioBlockSize wd | .wrAudioBlockSize wd | .rdAudioData wd | .wrAudioData wd | .reqUndefined wd _ _ =>
    some (.host wd)
  | .frameConfig _ _ _ | .frameControl _ _ _ | .frameAudio _ _ _ | .frameAcm _ _ _ | .frameUndefined _ _ _ _ =>
    some .frame
  | .hostByte _ | .hostFinish | .remoteByte _ | .reset => none
  | .send _ | .unblock | .dispatch _ | .complete | .updateAttn _ _ _ => none
  | .encU16 _ | .encU32 _ | .decU16 _ _ | .decU32 _ _ | .construct _ => none

/-- The bytes of an operation, `[]` for a row with no bit pattern (R100, R92, R113). -/
def encode (c : Codes) : Instr → List Byte
  | .rdStatus wd => encodeRequest wd .read c.addrStatus
  | .wrStatus wd => encodeRequest wd .write c.addrStatus
  | .rdMessage wd => encodeRequest wd .read c.addrMessage
  | .wrMessage wd => encodeRequest wd .write c.addrMessage
  | .rdAudioSource wd => encodeRequest wd .read c.addrAudioSource
  | .wrAudioSource wd => encodeRequest wd .write c.addrAudioSource
  | .rdAudioBlockSize wd => encodeRequest wd .read c.addrAudioBlockSize
  | .wrAudioBlockSize wd => encodeRequest wd .write c.addrAudioBlockSize
  | .rdAudioData wd => encodeRequest wd .read c.addrAudioData
  | .wrAudioData wd => encodeRequest wd .write c.addrAudioData
  | .reqUndefined wd dir a => encodeRequest wd dir a
  | .frameConfig addr port p => encodeFrame c.chConfig addr port p
  | .frameControl addr port p => encodeFrame c.chControl addr port p
  | .frameAudio addr port p => encodeFrame c.chAudio addr port p
  | .frameAcm addr port p => encodeFrame c.chAcm addr port p
  | .frameUndefined ch addr port p => encodeFrame ch addr port p
  | .hostByte _ | .hostFinish | .remoteByte _ | .reset => []
  | .send _ | .unblock | .dispatch _ | .complete | .updateAttn _ _ _ => []
  | .encU16 _ | .encU32 _ | .decU16 _ _ | .decU32 _ _ | .construct _ => []

/-! ## The host's opcode-table words -/

/-- The numbers the opcode table is written with (R113): the defaults of R7. -/
def tableCodes : Codes := Codes.standard 64

/-- The first `n` bytes of a number, least significant first (R64). -/
def bytesOfWord : Nat → Nat → List Byte
  | 0, _ => []
  | n + 1, w => BitVec.ofNat 8 w :: bytesOfWord n (w / 256)

/-- The request width of a table row of `nbits` bits: REQ8, REQ16, REQ32. -/
def tableWidth (nbits : Nat) : Option ReqWidth :=
  if nbits = 8 then some .w1 else if nbits = 16 then some .w2 else if nbits = 32 then some .w4 else none

/-- The bytes of a frame given as a number: its header, and the declared payload, bytes above `nbits` 0. -/
def tableFrame (nbits w : Nat) : List Byte :=
  let given := bytesOfWord (nbits / 8) w
  given ++ List.replicate (headerSize + (decodeHeader given).len.toNat - given.length) 0

/-- The instruction the decoder reads from a table row's bits. 8, 16 and 32 bits are the request words of those
widths; 88 bits or more are a frame from its header on. The FRAME rows' 8 bits are the channel byte alone, which is
no instruction by itself and has the same 8 bits as a request: 8 bits are read as a request (log entry 10). -/
def decodeTableWord (nbits w : Nat) : Option Instr :=
  match tableWidth nbits with
  | some wd => match decodeRequest tableCodes wd (bytesOfWord wd.bytes w) with
    | .instr i _ => some i
    | .rejected _ => none
  | none => if nbits < 88 then none
    else match decodeFrame tableCodes (tableFrame nbits w) with
      | .instr i _ => some i
      | .rejected _ => none

end Sys2Proof
end

