-- ==== Sys2Proof/Machine/Operands.lean ====
section
/-! DEFINITION. The layouts of register data and message fields (R41 to R44, R101) and the data counts (R173). -/

namespace Sys2Proof.Machine

/-- `AudioSource` (R43, R198). -/
structure AudioSource where
  addr : U32
  port : U16
deriving DecidableEq, Repr

/-- The AudioSource in the data of an AUDIO_SOURCE write (R198). -/
def decodeSource (buf : List Byte) : AudioSource := { addr := decU32 buf 0, port := decU16 buf 4 }

/-- The six bytes of an AudioSource (R43, R198). -/
def encodeSource (src : AudioSource) : List Byte := encU32 src.addr ++ encU16 src.port

/-- The disconnect value is `Address = 0, Port = 0` (R198). -/
def AudioSource.isDisconnect (src : AudioSource) : Bool := decide (src.addr = 0 ∧ src.port = 0)

/-- The status word as `STATUS_SIZE` little-endian bytes (R41, R101); of another size than 4 the spec says
nothing (DESIGN CHOICE, log entry 13). -/
def statusData (size : Nat) (word : U32) : List Byte :=
  (encU32 word ++ List.replicate (size - 4) 0).take size

/-- A message with its four bytes at `off` replaced (R42). -/
def replaceField (p : List Byte) (off : Nat) (v : U32) : List Byte :=
  p.take off ++ encU32 v ++ p.drop (off + 4)

/-- The message a MESSAGE read returns: the embedded address overwritten with the frame's source address, when the
message has room for it (R42, R192). -/
def readMessage (c : Codes) (f : Frame) : List Byte :=
  if c.msgAddrOffset + 4 ≤ f.payload.length then replaceField f.payload c.msgAddrOffset f.addr else f.payload

/-- `WriteCount` (R173); `none` for the two registers that "are read-only and reject writes" (R165). -/
def writeCount (c : Codes) : Reg → Option Nat
  | .status => none
  | .message => some c.msgWriteLen
  | .audioSource => some c.audioSourceSize
  | .audioBlockSize => some c.blockSizeSize
  | .audioData => none

end Sys2Proof.Machine
end

