-- ==== Sys2Proof/Machine/Ops.lean ====
section
/-! DEFINITION. The shared operations: outputs and violations, SEND, completion and unblock, the register handlers
(R190 to R201), the acceptance of requests (R162 to R165), the data phase (R166, R167), the dispatch handlers (R220 to
R224), reset (R290) and construction (R291). -/

namespace Sys2Proof.Machine

/-! ## Outputs -/

/-- A step starts with no output (R9). -/
def State.clearOut (s : State) : State := { s with out := Output.empty }

/-- `raise Violation(kind)`: the diagnostic is appended, nothing is saved and nothing is vectored (R11, R266). The
recovery is what the raising rule does next. -/
def State.raise (s : State) (d : Diag) : State := { s with out.diag := s.out.diag ++ [d] }

/-- The reply byte of a `HOST_BYTE` step (R9, R161). -/
def State.replyWith (s : State) (b : Byte) : State := { s with out.reply := some b }

/-- The result of an INTERNAL codec operation (log entry 5). -/
def State.returning (s : State) (r : Ret) : State := { s with out.ret := r }

/-- `emit` of each byte of a list, in order (R11). -/
def State.emitAll (s : State) (l : List Byte) : State := { s with out.tx := s.out.tx ++ l }

/-! ## FrameCodec, outbound -/

/-- The bytes `SEND(f)` emits: header fields in order, then the payload (R92, R144). -/
def wire (c : Codes) (f : Frame) : List Byte :=
  encodeHeader { len := f.len, addr := f.addr, port := f.port, chan := channelCode c f.chan } ++ f.payload

/-- `SEND` (R144, R145): it cannot fail and touches no codec state. -/
def send (f : Frame) (s : State) : State := s.emitAll (wire s.cfg.codes f)

/-- The `len` field of a built frame, its payload's length (R47, R201); a free value where no u32 is (log entry 6). -/
def frameLen (n : Nat) : U32 := if n < 2 ^ 32 then BitVec.ofNat 32 n else Config.freeFrameLen n

/-- `MakeFrame` (R201, R95). -/
def makeFrame (cfg : Cfg) (ch : Channel) (payload : List Byte) : Frame where
  chan := ch
  len := frameLen payload.length
  addr := cfg.remoteAddr
  port := cfg.remotePort
  payload := payload

/-! ## Completion and unblock -/

/-- `Complete()` (R168). -/
def complete (s : State) : State :=
  { s with te.buf := [], te.remaining := 0, te.stage := .awaitingRequest, ack := false }

/-- `UNBLOCK()`, `NotifyDataProcessed` (R169, R226): a no-op with a diagnostic outside `Stalled` (conflict C3). -/
def unblock (s : State) : State :=
  match s.te.stage with
  | .stalled => complete s
  | .awaitingRequest => s.raise .unblockWhileNotStalled
  | .awaitingData => s.raise .unblockWhileNotStalled

/-! ## Read handlers -/

/-- What `RegRead` returns (R190). -/
inductive ReadResult where
  | data (bytes : List Byte) (s : State)
  | unavailable
  | illegal
deriving DecidableEq, Repr

/-- `StatusRead()` (R191): the snapshot shows the error flag as it was before the clear. -/
def statusRead (s : State) : ReadResult :=
  .data (statusData s.cfg.codes.statusSize s.flags) { s with dc.err := false }

/-- `MessageRead()` (R192). -/
def messageRead (s : State) : ReadResult :=
  match s.dc.msgq with
  | [] => .unavailable
  | f :: rest => .data (readMessage s.cfg.codes f) { s with dc.msgq := rest }

/-- `AudioDataRead()` (R193): exactly `dc.block` bytes, oldest first. -/
def audioDataRead (s : State) : ReadResult :=
  if s.dc.abuf.length < s.dc.block.toNat then .unavailable
  else .data (s.dc.abuf.take s.dc.block.toNat) { s with dc.abuf := s.dc.abuf.drop s.dc.block.toNat }

/-- `RegRead` (R190, R194). -/
def regRead (s : State) : Reg → ReadResult
  | .status => statusRead s
  | .message => messageRead s
  | .audioData => audioDataRead s
  | .audioSource => .illegal
  | .audioBlockSize => .illegal

/-! ## Write handlers: each answers `done` and the state -/

/-- `MessageWrite` (R196). -/
def messageWrite (buf : List Byte) (s : State) : Bool × State :=
  if s.dc.connected then
    (true, send (makeFrame s.cfg .control (replaceField buf s.cfg.codes.msgMagicOffset s.cfg.magic)) s)
  else (true, s)

/-- `AudioSourceWrite` (R197): a disconnect completes at once, a connect request stalls. -/
def audioSourceWrite (buf : List Byte) (s : State) : Bool × State :=
  let src := decodeSource buf
  if src.isDisconnect then
    if s.dc.audio = .disconnected then (true, s)
    else (true, send (makeFrame s.cfg .acm (encodeSource src)) { s with dc.abuf := [], dc.audio := .disconnected })
  else (false, send (makeFrame s.cfg .acm (encodeSource src)) { s with dc.abuf := [], dc.audio := .connecting })

/-- `AudioBlockSizeWrite` (R199): always done; 0 and a value whose rounding does not fit a u32 are rejected (D14). -/
def blockSizeWrite (buf : List Byte) (s : State) : Bool × State :=
  let v := decU32 buf 0
  if v = 0 ∨ 0xFFFFFFFC < v.toNat then (true, s.raise (.badBlockSize v))
  else
    let n := BitVec.ofNat 32 (roundup4 v.toNat)
    let s1 := if n = v then s else s.raise (.blockSizeRounded v n)
    if n = s.dc.block then (true, s1) else (true, { s1 with dc.block := n })

/-- `RegWrite` (R190). STATUS and AUDIO_DATA are never reached, R165 having refused them; the branch is the
coordination error of R202, R263: a diagnostic, no handler, transaction completed (DEDUCED, log entry 14). -/
def regWrite (r : Reg) (buf : List Byte) (s : State) : Bool × State :=
  match r with
  | .message => messageWrite buf s
  | .audioSource => audioSourceWrite buf s
  | .audioBlockSize => blockSizeWrite buf s
  | .status => (true, s.raise (.addressDecodeFailed .status))
  | .audioData => (true, s.raise (.addressDecodeFailed .audioData))

/-! ## Requests -/

/-- The engine enters the data phase of an accepted request and raises `ack` (R164, R165, R170). -/
def enterData (r : Reg) (d : Dir) (buf : List Byte) (remaining : Nat) (s : State) : State :=
  { s with te.reg := r, te.dir := d, te.buf := buf, te.remaining := remaining, te.stage := .awaitingData, ack := true }

/-- `AcceptRead` (R164); the Boolean is `status_read` (R161). -/
def acceptRead (r : Reg) (s : State) : State × Bool :=
  match regRead s r with
  | .illegal => (s.raise (.readOfWriteOnly r), false)
  | .unavailable => (s.raise (.nothingAvailable r), false)
  | .data bytes s1 => (enterData r .read bytes bytes.length s1, decide (r = .status))

/-- `AcceptWrite` (R165). -/
def acceptWrite (r : Reg) (s : State) : State × Bool :=
  match writeCount s.cfg.codes r with
  | none => (s.raise (.writeToReadOnly r), false)
  | some n => (enterData r .write [] n s, false)

/-- The rejection of an undefined address (R163). -/
def rejectUndefined (a : RegAddr) (s : State) : State × Bool := (s.raise (.undefinedAddress a), false)

/-- The `HOST_BYTE` step that takes a complete request word (R161, R162): `te.req` is emptied, accepted or not, the
reply is `FILLER`, `act` is the acceptance, `UpdateAttn` comes last. -/
def requestStep (act : State → State × Bool) (s : State) : State :=
  let s1 := act ({ s with te.req := [] }.clearOut.replyWith s.cfg.codes.filler)
  s1.1.updateAttn s.flags s1.1.flags s1.2

/-- The `HOST_BYTE` step of an incomplete request word (R162). -/
def partialRequest (q : List Byte) (s : State) : State :=
  ({ s with te.req := q }.clearOut.replyWith s.cfg.codes.filler).updateAttn s.flags s.flags false

/-! ## The data phase -/

/-- `Data(b)` of a read (R166): the next staged byte is the reply. With nothing staged, which no run reaches, no read
data is due and the reply is `FILLER` (R7; log entry 8). -/
def dataRead (s : State) : State :=
  let s1 := { s with te.buf := s.te.buf.tail, te.remaining := s.te.remaining - 1 }.replyWith
    (s.te.buf.headD s.cfg.codes.filler)
  if s1.te.remaining = 0 then complete s1 else s1

/-- `Data(b)` of a write (R166): the last byte calls the handler with the whole buffer, `te.buf` being emptied
first; the handler's result completes the transaction or stalls it. -/
def dataWrite (b : Byte) (s : State) : State :=
  let s1 := { s with te.buf := s.te.buf ++ [b], te.remaining := s.te.remaining - 1 }.replyWith s.cfg.codes.filler
  if s1.te.remaining = 0 then
    let r := regWrite s1.te.reg s1.te.buf { s1 with te.buf := [] }
    if r.1 then complete r.2 else { r.2 with te.stage := .stalled }
  else s1

/-- The `HOST_BYTE` step of a data byte (R161, R166). -/
def dataStep (b : Byte) (s : State) : State :=
  let s1 := match s.te.dir with
    | .read => dataRead s.clearOut
    | .write => dataWrite b s.clearOut
  s1.updateAttn s.flags s1.flags false

/-- The `HOST_BYTE` step in `Stalled` (R161, R167): the byte is rejected and not kept. -/
def stalledStep (b : Byte) (s : State) : State :=
  ((s.clearOut.replyWith s.cfg.codes.filler).raise (.byteWhileStalled b)).updateAttn s.flags s.flags false

/-! ## Dispatch of received frames -/

/-- `OnConfig` (R221). -/
def onConfig (f : Frame) (s : State) : State :=
  if f.len = 0 then s.raise .emptyConfig
  else if s.dc.connected then s.raise .repeatedConfig
  else { s with dc.connected := true }.raise (.configAccepted f.payload)

/-- `OnControl` (R222). -/
def onControl (f : Frame) (s : State) : State :=
  if s.dc.connected = false then s.raise .controlWhileNotConnected
  else if f.len.toNat < s.cfg.msgMin ∨ s.cfg.msgMax < f.len.toNat then s.raise (.badMessageLength f.len)
  else if decU32 f.payload 0 ≠ s.cfg.magic then s.raise .badMagic
  else { s with dc.msgq := s.dc.msgq ++ [f] }

/-- `OnAudio` (R223). -/
def onAudio (f : Frame) (s : State) : State :=
  if s.dc.connected = false ∨ s.dc.audio ≠ .connected then s.raise .audioWhileNotConnected
  else { s with dc.abuf := s.dc.abuf ++ f.payload }

/-- `OnAcm` (R224). -/
def onAcm (f : Frame) (s : State) : State :=
  if f.len ≠ 1 then s.raise (.badAcmLength f.len)
  else
    let code := byteAt f.payload 0
    match s.dc.audio with
    | .connecting =>
      if code = 0 then unblock { s with dc.audio := .connected }
      else unblock { s with dc.audio := .disconnected, dc.err := true }
    | .connected =>
      if code = 0 then s.raise (.unexpectedAcm .connected code)
      else { s with dc.audio := .disconnected, dc.err := true }
    | .disconnected => s.raise (.unexpectedAcm .disconnected code)

/-- `Dispatch` (R220): by channel; the header's address and port are checked against nothing. -/
def dispatch (f : Frame) (s : State) : State :=
  match f.chan with
  | .config => onConfig f s
  | .control => onControl f s
  | .audio => onAudio f s
  | .acm => onAcm f s

/-- The frame a received header and payload make (R141). -/
def receivedFrame (ch : Channel) (addr : U32) (port : U16) (payload : List Byte) : Frame where
  chan := ch
  len := BitVec.ofNat 32 payload.length
  addr := addr
  port := port
  payload := payload

/-- The drop of a frame on an undefined channel (R143). -/
def dropFrame (ch : Byte) (s : State) : State := s.raise (.undefinedChannel ch)

/-- The `REMOTE_BYTE` step that completes a frame (R141): the handler runs, the codec is back in the header phase,
`UpdateAttn` comes last. There is no reply. -/
def frameStep (act : State → State) (s : State) : State :=
  let s1 := act { s with fc := { acc := [], hdr := none } }.clearOut
  s1.updateAttn s.flags s1.flags false

/-- The `REMOTE_BYTE` step of a byte that completes no frame (R141). -/
def collectStep (fc : FrameCodec) (s : State) : State :=
  { s with fc := fc }.clearOut.updateAttn s.flags s.flags false

/-- The codec after one more inbound byte, before the test for completion (R141): the eleventh header byte is decoded
and the accumulator cleared. -/
def codecNext (fc : FrameCodec) (b : Byte) : FrameCodec :=
  let acc := fc.acc ++ [b]
  if fc.hdr = none ∧ acc.length = headerSize then { acc := [], hdr := some (decodeHeader acc) }
  else { acc := acc, hdr := fc.hdr }

/-! ## Reset and construction -/

/-- `RESET()` (R290): every field named there; `te.reg` and `te.dir`, which need none, take the suggested values of R26
and R27 (log entry 4). The configuration and the events still to come are not touched. -/
def resetAll (s : State) : State :=
  { s with
    fc := { acc := [], hdr := none }
    te := { stage := .awaitingRequest, req := [], reg := .status, dir := .read, remaining := 0, buf := [] }
    ack := false
    dc := { connected := false, audio := .disconnected, err := false, msgq := [], abuf := [],
            block := s.cfg.defaultBlock }
    attn := false
    out := Output.empty }

/-- What `Construct` answers (R291): a configuration, or the failure reported to the caller. -/
inductive Construction where
  | ok (cfg : Cfg)
  | fail (e : ConfigError)
deriving DecidableEq, Repr

/-- The `MSG_WRITE_LEN` of the device that `p` constructs: the one given where it "lies in `[MSG_MIN, MSG_MAX]`" (R196),
else its default `MSG_MAX` (R7, R173; DESIGN CHOICE, log entry 17). -/
def writeLen (p : Params) : Nat :=
  if p.msgMin ≤ p.codes.msgWriteLen ∧ p.codes.msgWriteLen ≤ p.msgMax then p.codes.msgWriteLen else p.msgMax

/-- The validation of `Construct`, in its order (R291). -/
def constructCfg (p : Params) : Construction :=
  if p.hostEndpoint = false ∨ p.frameEndpoint = false then .fail .missingEndpoint
  else if 65535 < p.remotePort then .fail .badPort
  else if 2 ^ 32 ≤ p.remoteAddr then .fail .badAddress
  else if p.msgMin < 4 ∨ p.msgMin % 4 ≠ 0 then .fail .badMinSize
  else if p.msgMax < 4 ∨ p.msgMax % 4 ≠ 0 then .fail .badMaxSize
  else if p.msgMax < p.msgMin then .fail .minAboveMax
  else if p.defaultBlock = 0 ∨ p.defaultBlock.toNat % 4 ≠ 0 then .fail .badDefaultBlock
  else .ok { remoteAddr := BitVec.ofNat 32 p.remoteAddr, remotePort := BitVec.ofNat 16 p.remotePort,
             magic := p.magic, msgMin := p.msgMin, msgMax := p.msgMax, defaultBlock := p.defaultBlock,
             link := p.link, reqWidth := p.reqWidth, attnMode := p.attnMode,
             codes := { p.codes with msgWriteLen := writeLen p } }

end Sys2Proof.Machine
end

