-- ==== Sys2Proof/Machine/Frames.lean ====
section
/-! DEFINITION. The meanings of the five frame operations (format FRAME): each is the atomic `REMOTE_BYTE` step that
completes a frame on that channel (R141, R220; log entry 11). -/

namespace Sys2Proof.Machine

/-- FRAME_CONFIG (R221). -/
def execFrameConfig (addr : U32) (port : U16) (payload : List Byte) (s : State) : Host.Outcome State Fault Refusal :=
  .next (frameStep (dispatch (receivedFrame .config addr port payload)) s)

/-- FRAME_CONTROL (R222). -/
def execFrameControl (addr : U32) (port : U16) (payload : List Byte) (s : State) : Host.Outcome State Fault Refusal :=
  .next (frameStep (dispatch (receivedFrame .control addr port payload)) s)

/-- FRAME_AUDIO (R223). -/
def execFrameAudio (addr : U32) (port : U16) (payload : List Byte) (s : State) : Host.Outcome State Fault Refusal :=
  .next (frameStep (dispatch (receivedFrame .audio addr port payload)) s)

/-- FRAME_ACM (R224). -/
def execFrameAcm (addr : U32) (port : U16) (payload : List Byte) (s : State) : Host.Outcome State Fault Refusal :=
  .next (frameStep (dispatch (receivedFrame .acm addr port payload)) s)

/-- FRAME_UNDEFINED (R143): dropped once its payload is consumed, whatever its address, port and payload. -/
def execFrameUndefined (ch : Byte) (s : State) : Host.Outcome State Fault Refusal :=
  .next (frameStep (dropFrame ch) s)

/-- The meaning of the frame a complete header and payload are (R141). -/
def runFrame (h : Header) (payload : List Byte) (s : State) : Host.Outcome State Fault Refusal :=
  match channelDecode s.cfg.codes h.chan with
  | some .config => execFrameConfig h.addr h.port payload s
  | some .control => execFrameControl h.addr h.port payload s
  | some .audio => execFrameAudio h.addr h.port payload s
  | some .acm => execFrameAcm h.addr h.port payload s
  | none => execFrameUndefined h.chan s

end Sys2Proof.Machine
end

