-- ==== Sys2Proof/Machine/Requests.lean ====
section
/-! DEFINITION. The meanings of the eleven requests (formats REQ8, REQ16, REQ32): each is the atomic `HOST_BYTE` step
that takes the complete request word (R100, R162; log entry 11). -/

namespace Sys2Proof.Machine

/-- RD_STATUS (R164, R191). -/
def execRdStatus (s : State) : Host.Outcome State Fault Refusal := .next (requestStep (acceptRead .status) s)

/-- WR_STATUS (R165, R195). -/
def execWrStatus (s : State) : Host.Outcome State Fault Refusal := .next (requestStep (acceptWrite .status) s)

/-- RD_MESSAGE (R164, R192). -/
def execRdMessage (s : State) : Host.Outcome State Fault Refusal := .next (requestStep (acceptRead .message) s)

/-- WR_MESSAGE (R165, R196): the request; its data bytes follow as HOST_BYTE. -/
def execWrMessage (s : State) : Host.Outcome State Fault Refusal := .next (requestStep (acceptWrite .message) s)

/-- RD_AUDIO_SOURCE (R194). -/
def execRdAudioSource (s : State) : Host.Outcome State Fault Refusal :=
  .next (requestStep (acceptRead .audioSource) s)

/-- WR_AUDIO_SOURCE (R165, R197): the request; its data bytes follow as HOST_BYTE. -/
def execWrAudioSource (s : State) : Host.Outcome State Fault Refusal :=
  .next (requestStep (acceptWrite .audioSource) s)

/-- RD_AUDIO_BLOCK_SIZE (R194). -/
def execRdAudioBlockSize (s : State) : Host.Outcome State Fault Refusal :=
  .next (requestStep (acceptRead .audioBlockSize) s)

/-- WR_AUDIO_BLOCK_SIZE (R165, R199): the request; its data bytes follow as HOST_BYTE. -/
def execWrAudioBlockSize (s : State) : Host.Outcome State Fault Refusal :=
  .next (requestStep (acceptWrite .audioBlockSize) s)

/-- RD_AUDIO_DATA (R164, R193). -/
def execRdAudioData (s : State) : Host.Outcome State Fault Refusal := .next (requestStep (acceptRead .audioData) s)

/-- WR_AUDIO_DATA (R165, R195). -/
def execWrAudioData (s : State) : Host.Outcome State Fault Refusal := .next (requestStep (acceptWrite .audioData) s)

/-- REQ_UNDEFINED (R163, R106). -/
def execReqUndefined (a : RegAddr) (s : State) : Host.Outcome State Fault Refusal :=
  .next (requestStep (rejectUndefined a) s)

/-- The meaning of the request a complete word names (R99, R100). -/
def runRequest (dir : Dir) (a : RegAddr) (reg : Option Reg) (s : State) : Host.Outcome State Fault Refusal :=
  match reg with
  | none => execReqUndefined a s
  | some .status => match dir with
    | .read => execRdStatus s
    | .write => execWrStatus s
  | some .message => match dir with
    | .read => execRdMessage s
    | .write => execWrMessage s
  | some .audioSource => match dir with
    | .read => execRdAudioSource s
    | .write => execWrAudioSource s
  | some .audioBlockSize => match dir with
    | .read => execRdAudioBlockSize s
    | .write => execWrAudioBlockSize s
  | some .audioData => match dir with
    | .read => execRdAudioData s
    | .write => execWrAudioData s

end Sys2Proof.Machine
end

