-- ==== Sys2Proof/Machine/Events.lean ====
section
/-! DEFINITION. The meanings of the four input events (format EVENT): the whole atomic step of each (R9, R70). -/

namespace Sys2Proof.Machine

/-- `Request(b)` (R162): the byte joins the request word, and a complete word is the request it names. -/
def requestByte (b : Byte) (s : State) : Host.Outcome State Fault Refusal :=
  let q := s.te.req ++ [b]
  if q.length < s.cfg.reqWidth.bytes then .next (partialRequest q s)
  else
    let w := requestWord s.cfg.reqWidth q
    runRequest (requestDir w) (requestAddr w) (addressDecode s.cfg.codes (requestAddr w)) s

/-- HOST_BYTE (R161): by the stage. -/
def execHostByte (b : Byte) (s : State) : Host.Outcome State Fault Refusal :=
  match s.te.stage with
  | .awaitingRequest => requestByte b s
  | .awaitingData => .next (dataStep b s)
  | .stalled => .next (stalledStep b s)

/-- HOST_FINISH (R171): no reply, no state change in any stage. -/
def execHostFinish (s : State) : Host.Outcome State Fault Refusal := .next s.clearOut

/-- REMOTE_BYTE (R141, R142). -/
def execRemoteByte (b : Byte) (s : State) : Host.Outcome State Fault Refusal :=
  let fc := codecNext s.fc b
  match fc.hdr with
  | none => .next (collectStep fc s)
  | some h => if fc.acc.length = h.len.toNat then runFrame h fc.acc s else .next (collectStep fc s)

/-- RESET (R290). -/
def execReset (s : State) : Host.Outcome State Fault Refusal := .next (resetAll s)

end Sys2Proof.Machine
end

