-- ==== Sys2Proof/Machine/Internal.lean ====
section
/-! DEFINITION. The meanings of the internal operations (format INTERNAL), each its pseudocode on any state. They run
inside the step of an event (R271) and add to its outputs (log entry 11). -/

namespace Sys2Proof.Machine

/-- SEND (R144, R145). -/
def execSend (f : Frame) (s : State) : Host.Outcome State Fault Refusal := .next (send f s)

/-- UNBLOCK (R169). -/
def execUnblock (s : State) : Host.Outcome State Fault Refusal := .next (unblock s)

/-- DISPATCH (R220). -/
def execDispatch (f : Frame) (s : State) : Host.Outcome State Fault Refusal := .next (dispatch f s)

/-- COMPLETE (R168). -/
def execComplete (s : State) : Host.Outcome State Fault Refusal := .next (complete s)

/-- UPDATE_ATTN (R242 to R244). -/
def execUpdateAttn (old new : U32) (statusRead : Bool) (s : State) : Host.Outcome State Fault Refusal :=
  .next (s.updateAttn old new statusRead)

/-- ENC_U16 (R130): the bytes are returned to the caller, no state is written. -/
def execEncU16 (v : U16) (s : State) : Host.Outcome State Fault Refusal := .next (s.returning (.bytes (encU16 v)))

/-- ENC_U32 (R131). -/
def execEncU32 (v : U32) (s : State) : Host.Outcome State Fault Refusal := .next (s.returning (.bytes (encU32 v)))

/-- DEC_U16 (R132); out of bounds is fatal (R135). -/
def execDecU16 (l : List Byte) (off : Nat) (s : State) : Host.Outcome State Fault Refusal :=
  if off + 2 ≤ l.length then .next (s.returning (.u16 (decU16 l off))) else .fault .outOfBounds

/-- DEC_U32 (R133); out of bounds is fatal (R135). -/
def execDecU32 (l : List Byte) (off : Nat) (s : State) : Host.Outcome State Fault Refusal :=
  if off + 4 ≤ l.length then .next (s.returning (.u32 (decU32 l off))) else .fault .outOfBounds

/-- CONSTRUCT (R291, R292): the device with the configuration, in the state RESET leaves; with invalid parameters no
device (R262). The events still to come are not the device's and stay. -/
def execConstruct (p : Params) (s : State) : Host.Outcome State Fault Refusal :=
  match constructCfg p with
  | .ok cfg => .next (resetAll { s with cfg := cfg })
  | .fail e => .fault (.constructionFailed e)

end Sys2Proof.Machine
end

