-- ==== Sys2Proof/Machine/Dispatch.lean ====
section
/-! DEFINITION. One arm per operation, each one call of its meaning. -/

namespace Sys2Proof.Machine

def exec (i : Instr) (s : State) : Host.Outcome State Fault Refusal :=
  match i with
  -- requests: the width says how the word is spelt, the effect is the same (R100)
  | .rdStatus _ => Sys2Proof.Machine.execRdStatus s
  | .wrStatus _ => Sys2Proof.Machine.execWrStatus s
  | .rdMessage _ => Sys2Proof.Machine.execRdMessage s
  | .wrMessage _ => Sys2Proof.Machine.execWrMessage s
  | .rdAudioSource _ => Sys2Proof.Machine.execRdAudioSource s
  | .wrAudioSource _ => Sys2Proof.Machine.execWrAudioSource s
  | .rdAudioBlockSize _ => Sys2Proof.Machine.execRdAudioBlockSize s
  | .wrAudioBlockSize _ => Sys2Proof.Machine.execWrAudioBlockSize s
  | .rdAudioData _ => Sys2Proof.Machine.execRdAudioData s
  | .wrAudioData _ => Sys2Proof.Machine.execWrAudioData s
  | .reqUndefined _ _ addr => Sys2Proof.Machine.execReqUndefined addr s
  -- frames
  | .frameConfig addr port payload => Sys2Proof.Machine.execFrameConfig addr port payload s
  | .frameControl addr port payload => Sys2Proof.Machine.execFrameControl addr port payload s
  | .frameAudio addr port payload => Sys2Proof.Machine.execFrameAudio addr port payload s
  | .frameAcm addr port payload => Sys2Proof.Machine.execFrameAcm addr port payload s
  | .frameUndefined chan _ _ _ => Sys2Proof.Machine.execFrameUndefined chan s
  -- events
  | .hostByte b => Sys2Proof.Machine.execHostByte b s
  | .hostFinish => Sys2Proof.Machine.execHostFinish s
  | .remoteByte b => Sys2Proof.Machine.execRemoteByte b s
  | .reset => Sys2Proof.Machine.execReset s
  -- internal operations
  | .send f => Sys2Proof.Machine.execSend f s
  | .unblock => Sys2Proof.Machine.execUnblock s
  | .dispatch f => Sys2Proof.Machine.execDispatch f s
  | .complete => Sys2Proof.Machine.execComplete s
  | .updateAttn old new statusRead => Sys2Proof.Machine.execUpdateAttn old new statusRead s
  | .encU16 v => Sys2Proof.Machine.execEncU16 v s
  | .encU32 v => Sys2Proof.Machine.execEncU32 v s
  | .decU16 l off => Sys2Proof.Machine.execDecU16 l off s
  | .decU32 l off => Sys2Proof.Machine.execDecU32 l off s
  | .construct p => Sys2Proof.Machine.execConstruct p s

end Sys2Proof.Machine
end

