-- ==== Sys2Proof/Machine/Fetch.lean ====
section
/-! DEFINITION. How the next event is fetched, and how a table word is placed where the next step takes it. -/

namespace Sys2Proof.Machine

/-- The operation an input event is (R9, R113). -/
def eventInstr : Event → Instr
  | .hostByte b => .hostByte b
  | .hostFinish => .hostFinish
  | .remoteByte b => .remoteByte b
  | .reset => .reset

/-- A step with no event waiting: the block takes no step of its own (R8), so nothing changes and nothing is output
(log entry 1). -/
def idle (s : State) : State := s.clearOut

/-- The state in which the last byte of the request `q` is the next event and the bytes before it have been taken. -/
def placeRequest (s : State) (wd : ReqWidth) (q : List Byte) : State :=
  { s with
    cfg.reqWidth := wd
    cfg.codes := tableCodes
    te.stage := .awaitingRequest
    te.req := q.dropLast
    input := [.hostByte (byteAt q (wd.bytes - 1))] }

/-- The state in which the last byte of the frame `l` is the next event and the bytes before it have been taken. -/
def placeFrame (s : State) (l : List Byte) : State :=
  let h := decodeHeader l
  let fc : FrameCodec := if h.len = 0 then { acc := l.take 10, hdr := none }
    else { acc := (l.drop headerSize).dropLast, hdr := some h }
  { s with cfg.codes := tableCodes, fc := fc, input := [.remoteByte (byteAt l (l.length - 1))] }

/-- A table word placed so that the very next step takes it as its instruction. -/
def placeTableWord (s : State) (nbits w : Nat) : State :=
  match tableWidth nbits with
  | some wd => placeRequest s wd (bytesOfWord wd.bytes w)
  | none => if nbits < 88 then s else placeFrame s (tableFrame nbits w)

end Sys2Proof.Machine
end

