-- ==== Sys2Proof/Machine/Step.lean ====
section
/-! DEFINITION. One step: the next input event, run to its end as one atomic step (R70). -/

namespace Sys2Proof.Machine

/-- The step takes the first waiting event and runs it (R8, R70, R76). -/
def step (s : State) : Host.Outcome State Fault Refusal :=
  match s.input with
  | [] => .next (idle s)
  | e :: rest => exec (eventInstr e) { s with input := rest }

/-- `s` with the table word of `nbits` bits placed where the next step takes its instruction (log entry 10). -/
def State.withFetchWord (s : State) (nbits w : Nat) : State := placeTableWord s nbits w

end Sys2Proof.Machine
end

