-- ==== Sys2Proof/Safety.lean ====
section
/-! DEFINITION. The terms claims use: runs of several steps with the outputs of each, the invariants the spec states
of its state (R22, R25, R27 to R30, R34, R36, R174, R243), and the coordination errors (R263). -/

namespace Sys2Proof.Machine

/-- `n` steps, with the outputs of each in order; `none` when one stops. -/
def runSteps : Nat → State → Option (List Output × State)
  | 0, s => some ([], s)
  | n + 1, s =>
    match step s with
    | .next t => (runSteps n t).map fun r => (t.out :: r.1, r.2)
    | .fault _ => none
    | .refused _ => none

/-- Some status flag is set (R38). -/
def State.anyFlag (s : State) : Bool := s.dc.err || s.hasQueuedMessage || s.hasAudioBlockReady

/-- In `ClearOnEmpty` the attention line is the level "some flag is set" (R243). -/
abbrev AttnLevel (s : State) : Prop := s.cfg.attnMode = .clearOnEmpty → s.attn = s.anyFlag

/-- "if `fc.hdr = none` then `len(fc.acc) <= 10`; if `fc.hdr = some h` then `len(fc.acc) < h.len`" (R22). -/
def FrameCodec.Ok (fc : FrameCodec) : Prop :=
  match fc.hdr with
  | none => fc.acc.length ≤ 10
  | some h => fc.acc.length < h.len.toNat

/-- The outputs of a `HOST_BYTE` step: one reply byte, the bytes emitted, the diagnostics (R9). -/
def Output.host (reply : Byte) (tx : List Byte) (diag : List Diag) : Output :=
  { reply := some reply, tx := tx, diag := diag, ret := .none }

/-- The outputs of a `REMOTE_BYTE` step: no reply and nothing emitted (R9, R227). -/
def Output.remote (diag : List Diag) : Output := { reply := none, tx := [], diag := diag, ret := .none }

/-- The attention level after a `HOST_BYTE` or `REMOTE_BYTE` step that accepts no STATUS read, `flag` saying whether
some flag is set after it: the level of the flags in `ClearOnEmpty`, the latch with its rising edge in `ClearOnRead`
(R243, R244). -/
def State.attnAfter (s : State) (flag : Bool) : Bool :=
  match s.cfg.attnMode with
  | .clearOnEmpty => flag
  | .clearOnRead => s.attn || (!s.anyFlag && flag)

/-- The operations of a list, one after the other, with the outputs of each. -/
def execAll : List Instr → State → Option (List Output × State)
  | [], s => some ([], s)
  | i :: is, s =>
    match exec i s with
    | .next t => (execAll is t).map fun r => (t.out :: r.1, r.2)
    | .fault _ => none
    | .refused _ => none

/-- The event comes from the host (R271). -/
def Event.isHost : Event → Bool
  | .hostByte _ => true
  | .hostFinish => true
  | .remoteByte _ => false
  | .reset => false

/-- The step takes a STATUS read request that is accepted: the engine goes from AwaitingRequest to the data phase of a
STATUS read (R161, R164). -/
abbrev StatusReadAccepted (s t : State) : Prop :=
  s.te.stage = .awaitingRequest ∧ t.te.stage = .awaitingData ∧ t.te.reg = .status ∧ t.te.dir = .read

/-- The codec is between two frames: header phase, nothing accumulated (R140). -/
abbrev FrameCodec.atBoundary (fc : FrameCodec) : Prop := fc = { acc := [], hdr := none }

/-- The next remote byte is the whole payload, the status code, of an ACM frame: the header received declares one byte
on the ACM channel and none of the payload has come (R141, R224). -/
abbrev AwaitsAcmCode (s : State) : Prop :=
  ∃ h, s.fc = { acc := [], hdr := some h } ∧ h.len = 1 ∧ channelDecode s.cfg.codes h.chan = some .acm

/-- A frame the message queue may hold: a Control frame that passed the tests of R222, its payload as long as
declared (R34, R47). -/
structure QueuedOk (cfg : Cfg) (f : Frame) : Prop where
  control : f.chan = .control
  declared : f.payload.length = f.len.toNat
  atLeast : cfg.msgMin ≤ f.payload.length
  atMost : f.payload.length ≤ cfg.msgMax
  magic : decU32 f.payload 0 = cfg.magic

/-- The invariants of 10_state.md and 42_transaction_engine.md, of every state of a constructed device. -/
structure DeviceInv (s : State) : Prop where
  /-- The configuration is a constructed one (R6, R291). -/
  config : s.cfg.Wf
  /-- R22. -/
  codec : s.fc.Ok
  /-- R25: a partial request word only. -/
  request : s.te.req.length < s.cfg.reqWidth.bytes
  /-- R25: none outside AwaitingRequest. -/
  requestIdle : s.te.stage ≠ .awaitingRequest → s.te.req = []
  /-- R28: at least one data byte is pending in AwaitingData. -/
  pending : s.te.stage = .awaitingData → 1 ≤ s.te.remaining
  /-- R29: no transient data outside AwaitingData. -/
  bufferIdle : s.te.stage ≠ .awaitingData → s.te.buf = []
  /-- R29: in a read the buffer holds the staged bytes not yet returned. -/
  staged : s.te.stage = .awaitingData → s.te.dir = .read → s.te.buf.length = s.te.remaining
  /-- R29, R165, R173: in a write the buffer holds the bytes received so far, of a writable register. -/
  received : s.te.stage = .awaitingData → s.te.dir = .write →
    writeCount s.cfg.codes s.te.reg = some (s.te.buf.length + s.te.remaining)
  /-- R27: a stalled transaction is a write. -/
  stalledWrite : s.te.stage = .stalled → s.te.dir = .write
  /-- R30, R170. -/
  ackLevel : s.ack = decide (s.te.stage ≠ .awaitingRequest)
  /-- R174. -/
  stalledConnecting : s.te.stage = .stalled ↔ s.dc.audio = .connecting
  /-- R36. -/
  blockPositive : 0 < s.dc.block.toNat
  /-- R36. -/
  blockAligned : s.dc.block.toNat % 4 = 0
  /-- R34, R222. -/
  queue : ∀ f ∈ s.dc.msgq, QueuedOk s.cfg f
  /-- R243. -/
  attnLevel : AttnLevel s

/-- The diagnostics of class (c), coordination errors (R263). -/
def Diag.isCoordinationError : Diag → Bool
  | .unblockWhileNotStalled => true
  | .addressDecodeFailed _ => true
  | .undefinedAddress _ | .writeToReadOnly _ | .readOfWriteOnly _ | .nothingAvailable _ | .byteWhileStalled _
  | .badBlockSize _ | .blockSizeRounded _ _ | .undefinedChannel _ | .emptyConfig | .repeatedConfig
  | .controlWhileNotConnected | .badMessageLength _ | .badMagic | .audioWhileNotConnected | .badAcmLength _
  | .unexpectedAcm _ _ | .configAccepted _ => false

end Sys2Proof.Machine
end

