-- ==== Sys2Proof/Certificates/Slice0/Obligations.lean ====
section
/-! DEFINITION. The statements for the provers. -/

open Sys2Proof Sys2Proof.Machine

/-! ## Encodings -/

/-- Decoding the bytes of a well-formed request or frame, whatever follows them, gives it back and leaves the rest
(30_encoding.md sections 1 and 2): no bit of an operand is dropped. Rests on the spec's own decision D5. -/
def Obligations.DecodeEncodeAgree : Prop :=
  ∀ (c : Codes) (wd : ReqWidth) (i : Instr) (lk : Link) (rest : List Byte),
    c.Wf wd → i.wf c = true → i.link = some lk → (lk = .frame ∨ lk = .host wd) →
      decode c lk (encode c i ++ rest) = .instr i rest

/-- Whatever frame the decoder reads, encoding it gives the bytes read: no inbound byte is lost (30_encoding.md
section 1). -/
def Obligations.FrameDecodingLosesNoByte : Prop :=
  ∀ (c : Codes) (wd : ReqWidth) (l : List Byte) (i : Instr) (rest : List Byte),
    c.Wf wd → decodeFrame c l = .instr i rest →
      encode c i ++ rest = l ∧ i.wf c = true ∧ i.link = some .frame

/-- Whatever request the decoder reads, encoding it gives the bytes read, but for bit 7 of a one-byte word
(30_encoding.md section 2). Rests on the spec's own decision D5. -/
def Obligations.RequestDecodingLosesNoBit : Prop :=
  ∀ (c : Codes) (wd : ReqWidth) (q : List Byte) (i : Instr) (rest : List Byte),
    c.Wf wd → decodeRequest c wd q = .instr i rest →
      i.wf c = true ∧ i.link = some (.host wd) ∧
      (wd ≠ .w1 → encode c i ++ rest = q) ∧
      (wd = .w1 → ∃ b tl, q = b :: tl ∧ encode c i ++ rest = (b &&& 0x7F#8) :: tl)

/-- R108: with one-byte requests the two spellings of a request behave alike; with two or four bytes no bit is
ignored. -/
def Obligations.RequestBitSevenIgnored : Prop :=
  (∀ (s : State) (b : Byte), s.cfg.reqWidth = .w1 → s.te.stage = .awaitingRequest → s.te.req = [] →
    exec (.hostByte (b ||| 0x80#8)) s = exec (.hostByte (b &&& 0x7F#8)) s) ∧
  (∀ (wd : ReqWidth) (q q' : List Byte), wd ≠ .w1 → q.length = wd.bytes → q'.length = wd.bytes →
    requestWord wd q = requestWord wd q' → q = q')

/-- Words written out from the encoding tables decode to the operations they stand for (30_encoding.md sections 1
and 2, the default numbers). Rests on the spec's own decisions D1, D5 and D6. -/
def Obligations.SampleWordsDecode : Prop :=
  decodeRequest tableCodes .w1 [0x02#8] = .instr (.rdMessage .w1) [] ∧
  decodeRequest tableCodes .w1 [0x85#8] = .instr (.wrAudioSource .w1) [] ∧
  decodeRequest tableCodes .w2 [0x08#8, 0x00#8] = .instr (.rdAudioData .w2) [] ∧
  decodeRequest tableCodes .w2 [0x80#8, 0x00#8] = .instr (.reqUndefined .w2 .read 64#31) [] ∧
  decodeRequest tableCodes .w4 [0x07#8, 0x00#8, 0x00#8, 0x00#8] = .instr (.wrAudioBlockSize .w4) [] ∧
  decodeFrame tableCodes
      [0x02#8, 0x00#8, 0x00#8, 0x00#8, 0x01#8, 0x00#8, 0x00#8, 0x0A#8, 0x28#8, 0x23#8, 0x00#8, 0x6F#8, 0x6B#8] =
    .instr (.frameConfig 0x0A000001#32 9000#16 [0x6F#8, 0x6B#8]) [] ∧
  decodeFrame tableCodes
      [0x01#8, 0x00#8, 0x00#8, 0x00#8, 0x00#8, 0x00#8, 0x00#8, 0x00#8, 0x00#8, 0x00#8, 0x07#8, 0xFF#8, 0x11#8] =
    .instr (.frameUndefined 0x07#8 0#32 0#16 [0xFF#8]) [0x11#8]

/-- ENC_U16 and ENC_U32 return the little-endian bytes and write no state (R130, R131). -/
def Obligations.EncodersReturnLittleEndianBytes : Prop :=
  ∀ s : State,
    (∀ v : U16, exec (.encU16 v) s = .next { s with
      out.ret := .bytes [BitVec.ofNat 8 v.toNat, BitVec.ofNat 8 (v.toNat / 256)] }) ∧
    (∀ v : U32, exec (.encU32 v) s = .next { s with
      out.ret := .bytes [BitVec.ofNat 8 v.toNat, BitVec.ofNat 8 (v.toNat / 256), BitVec.ofNat 8 (v.toNat / 65536),
        BitVec.ofNat 8 (v.toNat / 16777216)] })

/-- DEC_U16 and DEC_U32 return the little-endian value at the offset and write no state (R132, R133). -/
def Obligations.DecodersReadLittleEndianBytes : Prop :=
  ∀ s : State,
    (∀ (pre post : List Byte) (a b : Byte), ∃ v : U16,
      v.toNat = a.toNat + 256 * b.toNat ∧
      exec (.decU16 (pre ++ a :: b :: post) pre.length) s = .next { s with out.ret := .u16 v }) ∧
    (∀ (pre post : List Byte) (a b c d : Byte), ∃ v : U32,
      v.toNat = a.toNat + 256 * b.toNat + 65536 * c.toNat + 16777216 * d.toNat ∧
      exec (.decU32 (pre ++ a :: b :: c :: d :: post) pre.length) s = .next { s with out.ret := .u32 v })

/-- DEC_U16 and DEC_U32 fault when the offset reaches past the list: the model's choice (log entry 7) for what
40_binary_codec.md calls "a programming-error/fatal condition". -/
def Obligations.DecodersFaultOutOfBounds : Prop :=
  ∀ (s : State) (l : List Byte) (off : Nat),
    (l.length < off + 2 → exec (.decU16 l off) s = .fault .outOfBounds) ∧
    (l.length < off + 4 → exec (.decU32 l off) s = .fault .outOfBounds)

/-- Decoding what was encoded gives the value back, and encoding what was decoded gives the bytes back
(40_binary_codec.md). -/
def Obligations.CodecRoundTrip : Prop :=
  (∀ (v : U16) (rest : List Byte), decU16 (encU16 v ++ rest) 0 = v) ∧
  (∀ (v : U32) (rest : List Byte), decU32 (encU32 v ++ rest) 0 = v) ∧
  (∀ l : List Byte, l.length = 2 → encU16 (decU16 l 0) = l) ∧
  (∀ l : List Byte, l.length = 4 → encU32 (decU32 l 0) = l)

/-! ## The step -/

/-- The step takes the first waiting event; with none waiting nothing happens (the model's choice: log entry 1). -/
def Obligations.StepTakesTheNextEvent : Prop :=
  ∀ s : State,
    (s.input = [] → step s = .next { s with out := Output.empty }) ∧
    (∀ b es, s.input = .hostByte b :: es → step s = exec (.hostByte b) { s with input := es }) ∧
    (∀ es, s.input = .hostFinish :: es → step s = exec .hostFinish { s with input := es }) ∧
    (∀ b es, s.input = .remoteByte b :: es → step s = exec (.remoteByte b) { s with input := es }) ∧
    (∀ es, s.input = .reset :: es → step s = exec .reset { s with input := es })

/-- When the waiting host byte completes a request word, the step runs the request the word decodes to. Rests on the spec's own
decision D5 (log entry 16); that the request is the whole step of its last byte is log entry 11. -/
def Obligations.StepRunsDecodedRequest : Prop :=
  ∀ (s : State) (b : Byte) (es : List Event) (i : Instr) (r : List Byte),
    s.input = .hostByte b :: es → s.te.stage = .awaitingRequest →
    decodeRequest s.cfg.codes s.cfg.reqWidth (s.te.req ++ [b]) = .instr i r →
      step s = exec i { s with input := es }

/-- When the waiting remote byte completes a frame, the step runs the frame operation its bytes decode to: with `l`
the bytes of the frame received so far, in the header or in the payload phase. Rests on the spec's own decisions D2 (an
undefined channel is dropped at the end of its frame) and D3 (an empty frame is complete with its header), log entry
16; that the frame is the whole step of its last byte is log entry 11. -/
def Obligations.StepRunsDecodedFrame : Prop :=
  ∀ (s : State) (b : Byte) (es : List Event) (i : Instr) (l : List Byte),
    s.input = .remoteByte b :: es → s.fc.Ok →
    (s.fc.hdr = none ∧ l = s.fc.acc ∨ ∃ h, s.fc.hdr = some h ∧ l = encodeHeader h ++ s.fc.acc) →
    decodeFrame s.cfg.codes (l ++ [b]) = .instr i [] →
      step s = exec i { s with input := es }

/-- No event stops the machine: every step answers a next state, with the configuration as it was and the event
taken (43_register_handlers.md: "Nothing in this core throws across the lock boundary"). -/
def Obligations.EveryStepCompletes : Prop :=
  ∀ s : State, ∃ t, step s = .next t ∧ t.cfg = s.cfg ∧ t.input = s.input.tail

/-! ## Requests -/

/-- RD_STATUS: the status word as it was is staged, the error latch alone is cleared, the attention line falls in
ClearOnRead and follows the remaining flags in ClearOnEmpty. Rests on the spec's own decisions D7, D10 and D13. -/
def Obligations.RdStatusSnapshotsAndClearsError : Prop :=
  ∀ (wd : ReqWidth) (s : State), s.cfg.codes.Wf s.cfg.reqWidth → s.cfg.codes.statusSize = 4 →
    exec (.rdStatus wd) s = .next { s with
      te := { stage := .awaitingData, req := [], reg := .status, dir := .read, remaining := 4, buf := encU32 s.flags }
      ack := true
      dc.err := false
      attn := match s.cfg.attnMode with
        | .clearOnEmpty => s.hasQueuedMessage || s.hasAudioBlockReady
        | .clearOnRead => false
      out := Output.host s.cfg.codes.filler [] [] }

/-- The status word: each flag at its bit, every other bit 0; at most 7 with the default bits (R240). Rests on the
spec's own decision D7. -/
def Obligations.StatusWordBits : Prop :=
  (∀ (s : State) (k : Nat), s.cfg.codes.Wf s.cfg.reqWidth → k < 32 →
    s.flags.getLsbD k =
      ((decide (k = s.cfg.codes.flagErrBit) && s.dc.err) ||
       (decide (k = s.cfg.codes.flagMsgBit) && decide (s.dc.msgq ≠ [])) ||
       (decide (k = s.cfg.codes.flagAudioBit) && decide (s.dc.block.toNat ≤ s.dc.abuf.length)))) ∧
  (∀ (s : State) (m : Nat), s.cfg.codes = Codes.standard m →
    s.flags.toNat = s.dc.err.toNat + 2 * (decide (s.dc.msgq ≠ [])).toNat
      + 4 * (decide (s.dc.block.toNat ≤ s.dc.abuf.length)).toNat)

/-- RD_MESSAGE with a message queued: the front frame is popped and its payload staged, the embedded address
overwritten with the frame's source address where it has room. Rests on the spec's own decisions D8, D9 and D10. -/
def Obligations.RdMessagePopsTheFront : Prop :=
  ∀ (wd : ReqWidth) (s : State) (f : Frame) (rest : List Frame) (p : List Byte),
    s.cfg.codes.Wf s.cfg.reqWidth → s.dc.msgq = f :: rest →
    (s.cfg.codes.msgAddrOffset + 4 ≤ f.payload.length →
      p = f.payload.take s.cfg.codes.msgAddrOffset ++ encU32 f.addr ++
        f.payload.drop (s.cfg.codes.msgAddrOffset + 4)) →
    (f.payload.length < s.cfg.codes.msgAddrOffset + 4 → p = f.payload) →
    p.length = f.payload.length ∧
    exec (.rdMessage wd) s = .next { s with
      te := { stage := .awaitingData, req := [], reg := .message, dir := .read, remaining := f.payload.length, buf := p }
      ack := true
      dc.msgq := rest
      attn := s.attnAfter (s.dc.err || !rest.isEmpty || s.hasAudioBlockReady)
      out := Output.host s.cfg.codes.filler [] [] }

/-- RD_AUDIO_DATA with a block buffered: exactly `dc.block` bytes leave the buffer, oldest first. Rests on the
spec's own decisions D10 and D13. -/
def Obligations.RdAudioDataDrainsOneBlock : Prop :=
  ∀ (wd : ReqWidth) (s : State) (blk rest : List Byte),
    s.cfg.codes.Wf s.cfg.reqWidth → s.dc.abuf = blk ++ rest → blk.length = s.dc.block.toNat →
    exec (.rdAudioData wd) s = .next { s with
      te := { stage := .awaitingData, req := [], reg := .audioData, dir := .read, remaining := s.dc.block.toNat,
              buf := blk }
      ack := true
      dc.abuf := rest
      attn := s.attnAfter (s.dc.err || s.hasQueuedMessage || decide (s.dc.block.toNat ≤ rest.length))
      out := Output.host s.cfg.codes.filler [] [] }

/-- A request word with an undefined address: rejected by name, `te.req` emptied, nothing else changed (R163), both
as the operation and as the host byte that completes the word. The reply rests on the spec's own decision D10 (log
entry 16); that the operation does so on every state and for any address is the model's reading (log entry 11). -/
def Obligations.UndefinedAddressRejected : Prop :=
  ∀ s : State, s.cfg.codes.Wf s.cfg.reqWidth → AttnLevel s →
    (∀ (wd : ReqWidth) (dir : Dir) (a : RegAddr),
      exec (.reqUndefined wd dir a) s = .next { s with
        te.req := [], out := Output.host s.cfg.codes.filler [] [.undefinedAddress a] }) ∧
    (∀ b : Byte, s.te.stage = .awaitingRequest → s.te.req.length + 1 = s.cfg.reqWidth.bytes →
      requestAddr (requestWord s.cfg.reqWidth (s.te.req ++ [b])) ∉ s.cfg.codes.addresses →
      exec (.hostByte b) s = .next { s with
        te.req := []
        out := Output.host s.cfg.codes.filler []
          [.undefinedAddress (requestAddr (requestWord s.cfg.reqWidth (s.te.req ++ [b])))] })

/-- Writes of STATUS and AUDIO_DATA and reads of AUDIO_SOURCE and AUDIO_BLOCK_SIZE: rejected by name, `te.req`
emptied, nothing else changed (R194, R195). Rests on the spec's own decisions D10 and D11. -/
def Obligations.IllegalDirectionRejected : Prop :=
  ∀ (wd : ReqWidth) (s : State), s.cfg.codes.Wf s.cfg.reqWidth → AttnLevel s →
    exec (.wrStatus wd) s = .next { s with
      te.req := [], out := Output.host s.cfg.codes.filler [] [.writeToReadOnly .status] } ∧
    exec (.wrAudioData wd) s = .next { s with
      te.req := [], out := Output.host s.cfg.codes.filler [] [.writeToReadOnly .audioData] } ∧
    exec (.rdAudioSource wd) s = .next { s with
      te.req := [], out := Output.host s.cfg.codes.filler [] [.readOfWriteOnly .audioSource] } ∧
    exec (.rdAudioBlockSize wd) s = .next { s with
      te.req := [], out := Output.host s.cfg.codes.filler [] [.readOfWriteOnly .audioBlockSize] }

/-- A read with nothing to return is aborted and changes nothing: MESSAGE with an empty queue, AUDIO_DATA with less
than a block buffered. Rests on the spec's own decisions D10 and D21. -/
def Obligations.NothingAvailableAborts : Prop :=
  ∀ (wd : ReqWidth) (s : State), s.cfg.codes.Wf s.cfg.reqWidth → AttnLevel s →
    (s.dc.msgq = [] → exec (.rdMessage wd) s = .next { s with
      te.req := [], out := Output.host s.cfg.codes.filler [] [.nothingAvailable .message] }) ∧
    (s.dc.abuf.length < s.dc.block.toNat → exec (.rdAudioData wd) s = .next { s with
      te.req := [], out := Output.host s.cfg.codes.filler [] [.nothingAvailable .audioData] })

/-- The three write requests are accepted: the engine awaits the register's data count, `ack` rises, and nothing of
the coordinator changes. Rests on the spec's own decisions D7, D8, D10 and D12. -/
def Obligations.WriteRequestsAccepted : Prop :=
  ∀ (wd : ReqWidth) (s : State), s.cfg.codes.Wf s.cfg.reqWidth → AttnLevel s →
    exec (.wrMessage wd) s = .next { s with
      te := { stage := .awaitingData, req := [], reg := .message, dir := .write,
              remaining := s.cfg.codes.msgWriteLen, buf := [] }
      ack := true
      out := Output.host s.cfg.codes.filler [] [] } ∧
    exec (.wrAudioSource wd) s = .next { s with
      te := { stage := .awaitingData, req := [], reg := .audioSource, dir := .write,
              remaining := s.cfg.codes.audioSourceSize, buf := [] }
      ack := true
      out := Output.host s.cfg.codes.filler [] [] } ∧
    exec (.wrAudioBlockSize wd) s = .next { s with
      te := { stage := .awaitingData, req := [], reg := .audioBlockSize, dir := .write,
              remaining := s.cfg.codes.blockSizeSize, buf := [] }
      ack := true
      out := Output.host s.cfg.codes.filler [] [] }

/-! ## Host bytes -/

/-- The last data byte of a MESSAGE write: before a Config frame a silent success; after it the buffer, its magic
field overwritten with MAGIC, leaves as a Control frame to the configured remote; the payload has as many bytes as
the buffer, which in a state with the invariant are MSG_WRITE_LEN, a number in [MSG_MIN, MSG_MAX] (R196). Rests on
the spec's own decisions D4, D8, D9 and D12. -/
def Obligations.MessageWriteSendsControlFrame : Prop :=
  ∀ (s : State) (b : Byte) (buf p : List Byte),
    s.cfg.codes.Wf s.cfg.reqWidth → AttnLevel s →
    s.te.stage = .awaitingData → s.te.dir = .write → s.te.reg = .message → s.te.remaining = 1 →
    buf = s.te.buf ++ [b] → s.cfg.codes.msgMagicOffset + 4 ≤ buf.length → buf.length < 2 ^ 32 →
    p = buf.take s.cfg.codes.msgMagicOffset ++ encU32 s.cfg.magic ++ buf.drop (s.cfg.codes.msgMagicOffset + 4) →
    (s.dc.connected = false → exec (.hostByte b) s = .next { s with
      te.stage := .awaitingRequest, te.remaining := 0, te.buf := [], ack := false
      out := Output.host s.cfg.codes.filler [] [] }) ∧
    (s.dc.connected = true → exec (.hostByte b) s = .next { s with
      te.stage := .awaitingRequest, te.remaining := 0, te.buf := [], ack := false
      out := Output.host s.cfg.codes.filler
        (encU32 (BitVec.ofNat 32 buf.length) ++ encU32 s.cfg.remoteAddr ++ encU16 s.cfg.remotePort ++
          [s.cfg.codes.chControl] ++ p) [] }) ∧
    p.length = buf.length ∧
    (DeviceInv s → buf.length = s.cfg.codes.msgWriteLen ∧ s.cfg.msgMin ≤ buf.length ∧ buf.length ≤ s.cfg.msgMax)

/-- The last data byte of an AUDIO_SOURCE write (R197): the all-zero source while Disconnected is a no-op; otherwise
the audio buffer is cleared and an ACM frame carries the source; the all-zero source completes at once, any
other one stalls in Connecting. Rests on the spec's own decisions D4, D12, D24, D25 and D30. -/
def Obligations.AudioSourceWriteConnectsOrDisconnects : Prop :=
  ∀ (s : State) (b : Byte) (buf : List Byte) (addr : U32) (port : U16),
    s.cfg.codes.Wf s.cfg.reqWidth → AttnLevel s → 0 < s.dc.block.toNat →
    s.te.stage = .awaitingData → s.te.dir = .write → s.te.reg = .audioSource → s.te.remaining = 1 →
    buf = s.te.buf ++ [b] → addr = decU32 buf 0 → port = decU16 buf 4 →
    (addr = 0 ∧ port = 0 → s.dc.audio = .disconnected → exec (.hostByte b) s = .next { s with
      te.stage := .awaitingRequest, te.remaining := 0, te.buf := [], ack := false
      out := Output.host s.cfg.codes.filler [] [] }) ∧
    (addr = 0 ∧ port = 0 → s.dc.audio ≠ .disconnected → exec (.hostByte b) s = .next { s with
      te.stage := .awaitingRequest, te.remaining := 0, te.buf := [], ack := false
      dc.abuf := [], dc.audio := .disconnected
      attn := s.attnAfter (s.dc.err || s.hasQueuedMessage)
      out := Output.host s.cfg.codes.filler
        (encU32 6 ++ encU32 s.cfg.remoteAddr ++ encU16 s.cfg.remotePort ++ [s.cfg.codes.chAcm] ++
          encU32 0 ++ encU16 0) [] }) ∧
    (¬(addr = 0 ∧ port = 0) → exec (.hostByte b) s = .next { s with
      te.stage := .stalled, te.remaining := 0, te.buf := []
      dc.abuf := [], dc.audio := .connecting
      attn := s.attnAfter (s.dc.err || s.hasQueuedMessage)
      out := Output.host s.cfg.codes.filler
        (encU32 6 ++ encU32 s.cfg.remoteAddr ++ encU16 s.cfg.remotePort ++ [s.cfg.codes.chAcm] ++
          encU32 addr ++ encU16 port) [] })

/-- The last data byte of an AUDIO_BLOCK_SIZE write (R199): 0 and values above 0xFFFFFFFC are rejected; any other
value becomes the block size, rounded up to a multiple of 4, with a warning when rounding changed it. The
transaction always completes. Rests on the spec's own decisions D12 and D14. -/
def Obligations.BlockSizeWriteRoundsUp : Prop :=
  ∀ (s : State) (b : Byte) (v n : U32),
    s.cfg.codes.Wf s.cfg.reqWidth → AttnLevel s →
    s.te.stage = .awaitingData → s.te.dir = .write → s.te.reg = .audioBlockSize → s.te.remaining = 1 →
    v = decU32 (s.te.buf ++ [b]) 0 →
    (v = 0 ∨ 0xFFFFFFFC < v.toNat → exec (.hostByte b) s = .next { s with
      te.stage := .awaitingRequest, te.remaining := 0, te.buf := [], ack := false
      out := Output.host s.cfg.codes.filler [] [.badBlockSize v] }) ∧
    (v ≠ 0 → v.toNat ≤ 0xFFFFFFFC → n.toNat = (v.toNat + 3) / 4 * 4 → exec (.hostByte b) s = .next { s with
      te.stage := .awaitingRequest, te.remaining := 0, te.buf := [], ack := false
      dc.block := n
      attn := s.attnAfter (s.dc.err || s.hasQueuedMessage || decide (n.toNat ≤ s.dc.abuf.length))
      out := Output.host s.cfg.codes.filler [] (if n = v then [] else [.blockSizeRounded v n]) })

/-- A data byte of a read returns the next staged byte and ignores the host's byte; the last one completes the
transaction. A data byte of a write that is not the last joins the buffer. Rests on the spec's own decision D12. -/
def Obligations.DataBytesMoveTheBuffer : Prop :=
  ∀ (s : State) (b : Byte), s.cfg.codes.Wf s.cfg.reqWidth → AttnLevel s → s.te.stage = .awaitingData →
    (∀ x xs k, s.te.dir = .read → s.te.buf = x :: xs → s.te.remaining = k + 2 →
      exec (.hostByte b) s = .next { s with
        te.buf := xs, te.remaining := k + 1, out := Output.host x [] [] }) ∧
    (∀ x xs, s.te.dir = .read → s.te.buf = x :: xs → s.te.remaining = 1 →
      exec (.hostByte b) s = .next { s with
        te.stage := .awaitingRequest, te.buf := [], te.remaining := 0, ack := false, out := Output.host x [] [] }) ∧
    (∀ k, s.te.dir = .write → s.te.remaining = k + 2 →
      exec (.hostByte b) s = .next { s with
        te.buf := s.te.buf ++ [b], te.remaining := k + 1, out := Output.host s.cfg.codes.filler [] [] })

/-- A host byte in Stalled is rejected by name and changes nothing (R167). Rests on the spec's own decision D10. -/
def Obligations.StalledByteRejected : Prop :=
  ∀ (s : State) (b : Byte), s.cfg.codes.Wf s.cfg.reqWidth → AttnLevel s → s.te.stage = .stalled →
    exec (.hostByte b) s = .next { s with out := Output.host s.cfg.codes.filler [] [.byteWhileStalled b] }

/-- A byte of an incomplete request word is kept and answered FILLER. Rests on the spec's own decisions D10 and D30. -/
def Obligations.PartialRequestAccumulates : Prop :=
  ∀ (s : State) (b : Byte), s.cfg.codes.Wf s.cfg.reqWidth → AttnLevel s → s.te.stage = .awaitingRequest →
    s.te.req.length + 1 < s.cfg.reqWidth.bytes →
    exec (.hostByte b) s = .next { s with
      te.req := s.te.req ++ [b], out := Output.host s.cfg.codes.filler [] [] }

/-- The whole data phase of a read: as many host bytes as are staged, of any value, return the staged bytes in order
and end the transaction. Rests on the spec's own decisions D12 and D29. -/
def Obligations.ReadDataPhaseReturnsStagedBytes : Prop :=
  ∀ (s : State) (bs : List Byte) (es : List Event),
    s.cfg.codes.Wf s.cfg.reqWidth → AttnLevel s →
    s.te.stage = .awaitingData → s.te.dir = .read → s.te.buf.length = s.te.remaining → 1 ≤ s.te.remaining →
    bs.length = s.te.remaining →
    ∃ t, runSteps bs.length { s with input := bs.map .hostByte ++ es }
        = some (s.te.buf.map (fun x => Output.host x [] []), t) ∧
      t = { s with te.stage := .awaitingRequest, te.buf := [], te.remaining := 0, ack := false,
                   out := t.out, input := es }

/-- The data phase of a write up to its last byte: the bytes gather in the buffer in order, each answered FILLER.
Rests on the spec's own decisions D12 and D29. -/
def Obligations.WriteDataPhaseGathersBytes : Prop :=
  ∀ (s : State) (bs : List Byte) (es : List Event),
    s.cfg.codes.Wf s.cfg.reqWidth → AttnLevel s →
    s.te.stage = .awaitingData → s.te.dir = .write → s.te.remaining = bs.length + 1 →
    ∃ t, runSteps bs.length { s with input := bs.map .hostByte ++ es }
        = some (List.replicate bs.length (Output.host s.cfg.codes.filler [] []), t) ∧
      t = { s with te.buf := s.te.buf ++ bs, te.remaining := 1, out := t.out, input := es }

/-- The bytes of a request, from the start of a word, run the request with the last byte and nothing before it.
Rests on the spec's own decisions D5 and D10. -/
def Obligations.RequestBytesRunTheRequest : Prop :=
  ∀ (s : State) (i : Instr) (es : List Event),
    s.cfg.codes.Wf s.cfg.reqWidth → AttnLevel s → s.te.stage = .awaitingRequest → s.te.req = [] →
    i.wf s.cfg.codes = true → i.link = some (.host s.cfg.reqWidth) →
    ∃ t, exec i { s with input := es } = .next t ∧
      runSteps s.cfg.reqWidth.bytes { s with input := (encode s.cfg.codes i).map .hostByte ++ es }
        = some (List.replicate (s.cfg.reqWidth.bytes - 1) (Output.host s.cfg.codes.filler [] []) ++ [t.out], t)

/-! ## Inbound frames -/

/-- A remote byte that completes no frame moves the codec one position and changes nothing else: a header byte
before the eleventh, the eleventh of a frame with a payload, a payload byte before the last. Rests on the spec's
own decision D3. -/
def Obligations.RemoteByteCollects : Prop :=
  ∀ (s : State) (b : Byte), s.cfg.codes.Wf s.cfg.reqWidth → AttnLevel s →
    (s.fc.hdr = none → s.fc.acc.length < 10 →
      exec (.remoteByte b) s = .next { s with fc.acc := s.fc.acc ++ [b], out := Output.empty }) ∧
    (∀ h, s.fc.hdr = none → s.fc.acc.length = 10 → s.fc.acc ++ [b] = encodeHeader h → h.len ≠ 0 →
      exec (.remoteByte b) s = .next { s with fc := { acc := [], hdr := some h }, out := Output.empty }) ∧
    (∀ h, s.fc.hdr = some h → s.fc.acc.length + 1 < h.len.toNat →
      exec (.remoteByte b) s = .next { s with fc.acc := s.fc.acc ++ [b], out := Output.empty })

/-- The bytes of consecutive frames, from the header phase, run exactly those frames in order, each with its last
byte and nothing before it, and leave the codec in the header phase. Rests on the spec's own decisions D2 and
D3. -/
def Obligations.FrameStreamRoundTrip : Prop :=
  ∀ (s : State) (fs : List Instr) (es : List Event),
    s.cfg.codes.Wf s.cfg.reqWidth → AttnLevel s → s.fc.atBoundary →
    (∀ i ∈ fs, i.wf s.cfg.codes = true ∧ i.link = some .frame) →
    ∃ outs t, execAll fs { s with input := es } = some (outs, t) ∧ t.fc.atBoundary ∧
      runSteps (fs.flatMap (encode s.cfg.codes)).length
          { s with input := (fs.flatMap (encode s.cfg.codes)).map .remoteByte ++ es }
        = some ((fs.zip outs).flatMap fun p =>
            List.replicate ((encode s.cfg.codes p.1).length - 1) Output.empty ++ [p.2], t)

/-- A Config frame (R221): the first non-empty one sets the connection latch; an empty one is rejected first, and
one after the latch is set is rejected. Rests on the spec's own decisions D3 and D27. -/
def Obligations.ConfigFrameSetsTheLatchOnce : Prop :=
  ∀ (s : State) (addr : U32) (port : U16) (p : List Byte),
    s.cfg.codes.Wf s.cfg.reqWidth → AttnLevel s → p.length < 2 ^ 32 →
    (p ≠ [] → s.dc.connected = false → exec (.frameConfig addr port p) s = .next { s with
      fc := { acc := [], hdr := none }, dc.connected := true, out := Output.remote [.configAccepted p] }) ∧
    (p ≠ [] → s.dc.connected = true → exec (.frameConfig addr port p) s = .next { s with
      fc := { acc := [], hdr := none }, out := Output.remote [.repeatedConfig] }) ∧
    (p = [] → exec (.frameConfig addr port p) s = .next { s with
      fc := { acc := [], hdr := none }, out := Output.remote [.emptyConfig] })

/-- A Control frame (R222): queued when connected, its length within the bounds and its first four bytes MAGIC;
otherwise dropped, with the first failing test named. Rests on the spec's own decision D27. -/
def Obligations.ControlFrameQueued : Prop :=
  ∀ (s : State) (addr : U32) (port : U16) (p : List Byte),
    s.cfg.codes.Wf s.cfg.reqWidth → AttnLevel s → p.length < 2 ^ 32 →
    (s.dc.connected = true → s.cfg.msgMin ≤ p.length → p.length ≤ s.cfg.msgMax → decU32 p 0 = s.cfg.magic →
      exec (.frameControl addr port p) s = .next { s with
        fc := { acc := [], hdr := none }
        dc.msgq := s.dc.msgq ++
          [{ chan := .control, len := BitVec.ofNat 32 p.length, addr := addr, port := port, payload := p }]
        attn := s.attnAfter true
        out := Output.remote [] }) ∧
    (s.dc.connected = false → exec (.frameControl addr port p) s = .next { s with
      fc := { acc := [], hdr := none }, out := Output.remote [.controlWhileNotConnected] }) ∧
    (s.dc.connected = true → p.length < s.cfg.msgMin ∨ s.cfg.msgMax < p.length →
      exec (.frameControl addr port p) s = .next { s with
        fc := { acc := [], hdr := none }, out := Output.remote [.badMessageLength (BitVec.ofNat 32 p.length)] }) ∧
    (s.dc.connected = true → s.cfg.msgMin ≤ p.length → p.length ≤ s.cfg.msgMax → decU32 p 0 ≠ s.cfg.magic →
      exec (.frameControl addr port p) s = .next { s with
        fc := { acc := [], hdr := none }, out := Output.remote [.badMagic] })

/-- An Audio frame (R223): every payload byte is appended to the audio buffer when the latch is set and the audio
state is Connected; otherwise it is dropped. Rests on the spec's own decision D23. -/
def Obligations.AudioFrameBuffered : Prop :=
  ∀ (s : State) (addr : U32) (port : U16) (p : List Byte),
    s.cfg.codes.Wf s.cfg.reqWidth → AttnLevel s → p.length < 2 ^ 32 →
    (s.dc.connected = true → s.dc.audio = .connected → exec (.frameAudio addr port p) s = .next { s with
      fc := { acc := [], hdr := none }
      dc.abuf := s.dc.abuf ++ p
      attn := s.attnAfter (s.dc.err || s.hasQueuedMessage || decide (s.dc.block.toNat ≤ s.dc.abuf.length + p.length))
      out := Output.remote [] }) ∧
    (s.dc.connected = false ∨ s.dc.audio ≠ .connected → exec (.frameAudio addr port p) s = .next { s with
      fc := { acc := [], hdr := none }, out := Output.remote [.audioWhileNotConnected] })

/-- An ACM frame (R224): one status byte ends the connecting phase and unblocks the stalled transaction, 0 to
Connected, any other to Disconnected with the error latch; a non-zero one ends a connection; the rest are
warnings; any other length is rejected. Rests on the spec's own decisions D12, D24 and D25. -/
def Obligations.AcmFrameDrivesTheAudioState : Prop :=
  ∀ (s : State) (addr : U32) (port : U16) (code : Byte) (p : List Byte),
    s.cfg.codes.Wf s.cfg.reqWidth → AttnLevel s → p.length < 2 ^ 32 →
    (s.dc.audio = .connecting → s.te.stage = .stalled → code = 0 → exec (.frameAcm addr port [code]) s = .next { s with
      fc := { acc := [], hdr := none }
      te.stage := .awaitingRequest, te.buf := [], te.remaining := 0, ack := false
      dc.audio := .connected
      out := Output.remote [] }) ∧
    (s.dc.audio = .connecting → s.te.stage = .stalled → code ≠ 0 → exec (.frameAcm addr port [code]) s = .next { s with
      fc := { acc := [], hdr := none }
      te.stage := .awaitingRequest, te.buf := [], te.remaining := 0, ack := false
      dc.audio := .disconnected, dc.err := true
      attn := s.attnAfter true
      out := Output.remote [] }) ∧
    (s.dc.audio = .connected → code ≠ 0 → exec (.frameAcm addr port [code]) s = .next { s with
      fc := { acc := [], hdr := none }
      dc.audio := .disconnected, dc.err := true
      attn := s.attnAfter true
      out := Output.remote [] }) ∧
    (s.dc.audio = .connected → code = 0 → exec (.frameAcm addr port [code]) s = .next { s with
      fc := { acc := [], hdr := none }, out := Output.remote [.unexpectedAcm .connected code] }) ∧
    (s.dc.audio = .disconnected → exec (.frameAcm addr port [code]) s = .next { s with
      fc := { acc := [], hdr := none }, out := Output.remote [.unexpectedAcm .disconnected code] }) ∧
    (p.length ≠ 1 → exec (.frameAcm addr port p) s = .next { s with
      fc := { acc := [], hdr := none }, out := Output.remote [.badAcmLength (BitVec.ofNat 32 p.length)] })

/-- A frame on an undefined channel is dropped once complete, and a frame is one exactly when its channel byte is
none of the four (R143). Rests on the spec's own decision D2. -/
def Obligations.UndefinedChannelDropped : Prop :=
  ∀ (s : State) (ch : Byte) (addr : U32) (port : U16) (p : List Byte),
    s.cfg.codes.Wf s.cfg.reqWidth → AttnLevel s →
    exec (.frameUndefined ch addr port p) s = .next { s with
      fc := { acc := [], hdr := none }, out := Output.remote [.undefinedChannel ch] } ∧
    (frameInstr s.cfg.codes { len := BitVec.ofNat 32 p.length, addr := addr, port := port, chan := ch } p
        = .frameUndefined ch addr port p ↔ ch ∉ s.cfg.codes.channels)

/-! ## The other events and the internal operations -/

/-- HOST_FINISH has no effect in any stage (R171): nothing changes, and the step outputs nothing. Rests on the
spec's own decision D17. -/
def Obligations.HostFinishDoesNothing : Prop :=
  ∀ s : State, exec .hostFinish s = .next { s with out := Output.empty }

/-- RESET (R290): every field the rule names at its value, the configuration untouched, no output. -/
def Obligations.ResetReinitializes : Prop :=
  ∀ s : State, ∃ t, exec .reset s = .next t ∧
    t.cfg = s.cfg ∧ t.fc.acc = [] ∧ t.fc.hdr = none ∧
    t.te.stage = .awaitingRequest ∧ t.te.req = [] ∧ t.te.buf = [] ∧ t.te.remaining = 0 ∧ t.ack = false ∧
    t.dc = { connected := false, audio := .disconnected, err := false, msgq := [], abuf := [],
             block := s.cfg.defaultBlock } ∧
    t.attn = false ∧ t.out.reply = none ∧ t.out.tx = [] ∧ t.input = s.input

/-- CONSTRUCT (R291, R292): with valid parameters the device has them as its configuration and is in the state RESET
leaves; with any invalid one construction fails and there is no device. `MSG_WRITE_LEN` is the one given where it
lies in [MSG_MIN, MSG_MAX] (R196), and otherwise MSG_MAX, the model's choice (log entry 17). Rests on the spec's own
decisions D8, D19 and D20. -/
def Obligations.ConstructValidates : Prop :=
  ∀ (s : State) (p : Params),
    (p.hostEndpoint = true → p.frameEndpoint = true → p.remotePort ≤ 65535 → p.remoteAddr < 2 ^ 32 →
      4 ≤ p.msgMin → p.msgMin % 4 = 0 → 4 ≤ p.msgMax → p.msgMax % 4 = 0 → p.msgMin ≤ p.msgMax →
      0 < p.defaultBlock.toNat → p.defaultBlock.toNat % 4 = 0 →
      ∃ t, exec (.construct p) s = .next t ∧ exec .reset t = .next t ∧ t.input = s.input ∧
        t.cfg.remoteAddr.toNat = p.remoteAddr ∧ t.cfg.remotePort.toNat = p.remotePort ∧ t.cfg.magic = p.magic ∧
        t.cfg.msgMin = p.msgMin ∧ t.cfg.msgMax = p.msgMax ∧ t.cfg.defaultBlock = p.defaultBlock ∧
        t.cfg.link = p.link ∧ t.cfg.reqWidth = p.reqWidth ∧ t.cfg.attnMode = p.attnMode ∧
        t.cfg.codes = { p.codes with msgWriteLen := t.cfg.codes.msgWriteLen } ∧
        (p.msgMin ≤ p.codes.msgWriteLen ∧ p.codes.msgWriteLen ≤ p.msgMax →
          t.cfg.codes.msgWriteLen = p.codes.msgWriteLen) ∧
        (p.codes.msgWriteLen < p.msgMin ∨ p.msgMax < p.codes.msgWriteLen → t.cfg.codes.msgWriteLen = p.msgMax)) ∧
    (p.hostEndpoint = false ∨ p.frameEndpoint = false ∨ 65535 < p.remotePort ∨ 2 ^ 32 ≤ p.remoteAddr ∨
      p.msgMin < 4 ∨ p.msgMin % 4 ≠ 0 ∨ p.msgMax < 4 ∨ p.msgMax % 4 ≠ 0 ∨ p.msgMax < p.msgMin ∨
      p.defaultBlock = 0 ∨ p.defaultBlock.toNat % 4 ≠ 0 →
      ∃ e, exec (.construct p) s = .fault (.constructionFailed e))

/-- SEND (R144): the header's fields in order, then the payload, appended to the step's output; no state written. -/
def Obligations.SendEmitsHeaderThenPayload : Prop :=
  ∀ (s : State) (f : Frame) (ch : Byte),
    (f.chan = .config → ch = s.cfg.codes.chConfig) → (f.chan = .control → ch = s.cfg.codes.chControl) →
    (f.chan = .audio → ch = s.cfg.codes.chAudio) → (f.chan = .acm → ch = s.cfg.codes.chAcm) →
    ∃ bytes : List Byte, exec (.send f) s = .next { s with out.tx := s.out.tx ++ bytes } ∧
      bytes = encU32 f.len ++ encU32 f.addr ++ encU16 f.port ++ [ch] ++ f.payload ∧
      (f.Wf → bytes.length = 11 + f.len.toNat)

/-- UNBLOCK (R169): completes a stalled transaction, and is a no-op with a diagnostic otherwise. -/
def Obligations.UnblockCompletesAStall : Prop :=
  ∀ s : State,
    (s.te.stage = .stalled → exec .unblock s = .next { s with
      te.stage := .awaitingRequest, te.buf := [], te.remaining := 0, ack := false }) ∧
    (s.te.stage ≠ .stalled → exec .unblock s = .next { s with
      out.diag := s.out.diag ++ [.unblockWhileNotStalled] })

/-- DISPATCH (R220): the handler of the frame's channel. A frame it accepts has its effect on the coordinator, a frame
it rejects changes nothing and raises the first failing test. Rests on the spec's own decisions D21, D23, D24, D25 and
D27. -/
def Obligations.DispatchByChannel : Prop :=
  ∀ (s : State) (f : Frame), f.Wf →
    (f.chan = .config → f.payload ≠ [] → s.dc.connected = false → exec (.dispatch f) s = .next { s with
      dc.connected := true, out.diag := s.out.diag ++ [.configAccepted f.payload] }) ∧
    (f.chan = .config → f.payload = [] → exec (.dispatch f) s = .next { s with
      out.diag := s.out.diag ++ [.emptyConfig] }) ∧
    (f.chan = .config → f.payload ≠ [] → s.dc.connected = true → exec (.dispatch f) s = .next { s with
      out.diag := s.out.diag ++ [.repeatedConfig] }) ∧
    (f.chan = .control → s.dc.connected = true → s.cfg.msgMin ≤ f.payload.length → f.payload.length ≤ s.cfg.msgMax →
      decU32 f.payload 0 = s.cfg.magic → exec (.dispatch f) s = .next { s with dc.msgq := s.dc.msgq ++ [f] }) ∧
    (f.chan = .control → s.dc.connected = false → exec (.dispatch f) s = .next { s with
      out.diag := s.out.diag ++ [.controlWhileNotConnected] }) ∧
    (f.chan = .control → s.dc.connected = true → f.payload.length < s.cfg.msgMin ∨ s.cfg.msgMax < f.payload.length →
      exec (.dispatch f) s = .next { s with out.diag := s.out.diag ++ [.badMessageLength f.len] }) ∧
    (f.chan = .control → s.dc.connected = true → s.cfg.msgMin ≤ f.payload.length → f.payload.length ≤ s.cfg.msgMax →
      decU32 f.payload 0 ≠ s.cfg.magic → exec (.dispatch f) s = .next { s with
        out.diag := s.out.diag ++ [.badMagic] }) ∧
    (f.chan = .audio → s.dc.connected = true → s.dc.audio = .connected →
      exec (.dispatch f) s = .next { s with dc.abuf := s.dc.abuf ++ f.payload }) ∧
    (f.chan = .audio → s.dc.connected = false ∨ s.dc.audio ≠ .connected → exec (.dispatch f) s = .next { s with
      out.diag := s.out.diag ++ [.audioWhileNotConnected] }) ∧
    (f.chan = .acm → f.payload.length ≠ 1 → exec (.dispatch f) s = .next { s with
      out.diag := s.out.diag ++ [.badAcmLength f.len] }) ∧
    (f.chan = .acm → ∀ code, f.payload = [code] →
      (s.dc.audio = .connecting → s.te.stage = .stalled → exec (.dispatch f) s = .next { s with
        te.stage := .awaitingRequest, te.buf := [], te.remaining := 0, ack := false
        dc.audio := if code = 0 then .connected else .disconnected
        dc.err := s.dc.err || decide (code ≠ 0) }) ∧
      (s.dc.audio = .connecting → s.te.stage ≠ .stalled → exec (.dispatch f) s = .next { s with
        dc.audio := if code = 0 then .connected else .disconnected
        dc.err := s.dc.err || decide (code ≠ 0)
        out.diag := s.out.diag ++ [.unblockWhileNotStalled] }) ∧
      (s.dc.audio = .connected → code ≠ 0 →
        exec (.dispatch f) s = .next { s with dc.audio := .disconnected, dc.err := true }) ∧
      (s.dc.audio = .connected → code = 0 → exec (.dispatch f) s = .next { s with
        out.diag := s.out.diag ++ [.unexpectedAcm .connected code] }) ∧
      (s.dc.audio = .disconnected → exec (.dispatch f) s = .next { s with
        out.diag := s.out.diag ++ [.unexpectedAcm .disconnected code] }))

/-- The header's address and port are checked against nothing, in any channel: two frames that differ in them alone
leave the same state, but for the source recorded in the Control frame that both queue. -/
def Obligations.DispatchIgnoresTheSource : Prop :=
  ∀ (s t t' : State) (f : Frame) (addr : U32) (port : U16),
    exec (.dispatch f) s = .next t → exec (.dispatch { f with addr := addr, port := port }) s = .next t' →
    (t' = t ∧ t.dc.msgq = s.dc.msgq) ∨
    (f.chan = .control ∧ t.dc.msgq = s.dc.msgq ++ [f] ∧
      t' = { t with dc.msgq := s.dc.msgq ++ [{ f with addr := addr, port := port }] })

/-- COMPLETE (R168). -/
def Obligations.CompleteEndsTheTransaction : Prop :=
  ∀ s : State, exec .complete s = .next { s with
    te := { s.te with buf := [], remaining := 0, stage := .awaitingRequest }, ack := false }

/-- UPDATE_ATTN (R243, R244): the level of the new word in ClearOnEmpty; in ClearOnRead a STATUS read lowers the
line, the edge from zero to non-zero raises it, and nothing else moves it. Rests on the spec's own decision D13. -/
def Obligations.UpdateAttnByMode : Prop :=
  ∀ (s : State) (old new : U32) (r : Bool), ∃ level : Bool,
    exec (.updateAttn old new r) s = .next { s with attn := level } ∧
    (s.cfg.attnMode = .clearOnEmpty → (level = true ↔ new ≠ 0)) ∧
    (s.cfg.attnMode = .clearOnRead →
      (r = true → level = false) ∧
      (r = false → old = 0 → new ≠ 0 → level = true) ∧
      (r = false → (old ≠ 0 ∨ new = 0) → level = s.attn))

/-! ## Invariants -/

/-- The invariant holds at reset (the configuration is the model's choice: log entry 3). -/
def Obligations.ResetHasInv : Prop := DeviceInv State.reset

/-- Every construction with valid parameters and numbers that obey R7 gives a state with the invariant; the magic
field of a message has to fit in MSG_MAX bytes, which it does where MSG_WRITE_LEN is at most that. -/
def Obligations.ConstructedDeviceHasInv : Prop :=
  ∀ (s t : State) (p : Params), p.codes.Wf p.reqWidth → p.codes.msgMagicOffset + 4 ≤ p.msgMax →
    exec (.construct p) s = .next t → DeviceInv t

/-- Every step keeps the invariant, from every state that has it, whatever the configuration. -/
def Obligations.StepKeepsInv : Prop :=
  ∀ s t : State, DeviceInv s → step s = .next t → DeviceInv t

/-- R174: the engine is stalled exactly while the audio state is Connecting, at reset and after every step from a
state where it holds. -/
def Obligations.StalledExactlyWhileConnecting : Prop :=
  (State.reset.te.stage = .stalled ↔ State.reset.dc.audio = .connecting) ∧
  ∀ s t : State, (s.te.stage = .stalled ↔ s.dc.audio = .connecting) → step s = .next t →
    (t.te.stage = .stalled ↔ t.dc.audio = .connecting)

/-! ## Rules of the whole machine -/

/-- The connection latch is never cleared but by RESET, and set only by the byte that completes a non-empty Config
frame (10_state.md section 4). Rests on the spec's own decision D27. -/
def Obligations.ConnectedLatch : Prop :=
  ∀ s t : State, step s = .next t →
    (s.dc.connected = true → s.input.head? ≠ some .reset → t.dc.connected = true) ∧
    (s.dc.connected = false → t.dc.connected = true →
      ∃ b es p, s.input = .remoteByte b :: es ∧ p ≠ [] ∧ t.out.diag = [.configAccepted p])

/-- The error latch is set only by the status code of an ACM frame, a non-zero one, that ends Connecting or Connected,
and cleared only by an accepted STATUS read or by RESET (10_state.md section 4). Rests on the spec's own decisions
D25 and D28. -/
def Obligations.ErrorLatch : Prop :=
  ∀ s t : State, step s = .next t →
    (s.dc.err = false → t.dc.err = true →
      ∃ b es, s.input = .remoteByte b :: es ∧ AwaitsAcmCode s ∧ b ≠ 0 ∧
        s.dc.audio ≠ .disconnected ∧ t.dc.audio = .disconnected) ∧
    (s.dc.err = true → t.dc.err = false →
      (∃ es, s.input = .reset :: es) ∨ ((∃ b es, s.input = .hostByte b :: es) ∧ StatusReadAccepted s t))

/-- The audio state changes in exactly the ways of the transition table (44_frame_dispatch.md): by RESET; by the last
byte of an AUDIO_SOURCE write, a zero source to Disconnected, any other to Connecting with a stall, the buffer cleared
and the ACM frame sent; by the status code of an ACM frame, 0 to Connected, any other to Disconnected with the error
latch. Rests on the spec's own decisions D4, D24 and D25. -/
def Obligations.AudioTransitionsComplete : Prop :=
  ∀ s t : State, (s.te.stage = .stalled ↔ s.dc.audio = .connecting) → step s = .next t → t.dc.audio ≠ s.dc.audio →
    (∃ es, s.input = .reset :: es ∧ t.dc.audio = .disconnected) ∨
    (∃ b es addr port, s.input = .hostByte b :: es ∧ s.te.stage = .awaitingData ∧ s.te.dir = .write ∧
      s.te.reg = .audioSource ∧ s.te.remaining ≤ 1 ∧
      addr = decU32 (s.te.buf ++ [b]) 0 ∧ port = decU16 (s.te.buf ++ [b]) 4 ∧
      t.dc.abuf = [] ∧ t.dc.err = s.dc.err ∧
      t.out.tx = encU32 6 ++ encU32 s.cfg.remoteAddr ++ encU16 s.cfg.remotePort ++ [s.cfg.codes.chAcm] ++
        encU32 addr ++ encU16 port ∧
      (¬(addr = 0 ∧ port = 0) ∧ s.dc.audio ≠ .connecting ∧ t.dc.audio = .connecting ∧ t.te.stage = .stalled ∨
       (addr = 0 ∧ port = 0) ∧ s.dc.audio = .connected ∧ t.dc.audio = .disconnected ∧
        t.te.stage = .awaitingRequest)) ∨
    (∃ b es, s.input = .remoteByte b :: es ∧ AwaitsAcmCode s ∧ t.dc.abuf = s.dc.abuf ∧
      (b = 0 ∧ s.dc.audio = .connecting ∧ t.dc.audio = .connected ∧ t.dc.err = s.dc.err ∧
        t.te.stage = .awaitingRequest ∨
       b ≠ 0 ∧ s.dc.audio = .connecting ∧ t.dc.audio = .disconnected ∧ t.dc.err = true ∧
        t.te.stage = .awaitingRequest ∨
       b ≠ 0 ∧ s.dc.audio = .connected ∧ t.dc.audio = .disconnected ∧ t.dc.err = true ∧ t.te = s.te))

/-- No REMOTE_BYTE step emits a byte or replies (R227): the block never answers a frame with a frame. -/
def Obligations.RemoteByteNeverTransmits : Prop :=
  ∀ (s : State) (b : Byte), ∃ t, exec (.remoteByte b) s = .next t ∧ t.out.tx = [] ∧ t.out.reply = none

/-- Every host byte is answered by exactly one byte, and bytes leave on the frame link only with the last data byte
of a MESSAGE write while connected or of an AUDIO_SOURCE write. Rests on the spec's own decision D18. -/
def Obligations.HostByteRepliesAndSendsLast : Prop :=
  ∀ (s : State) (b : Byte), ∃ t r, exec (.hostByte b) s = .next t ∧ t.out.reply = some r ∧
    (t.out.tx ≠ [] → s.te.stage = .awaitingData ∧ s.te.dir = .write ∧ s.te.remaining ≤ 1 ∧
      (s.te.reg = .message ∧ s.dc.connected = true ∨ s.te.reg = .audioSource))

/-- Host bytes neither read nor write the inbound codec: inbound assembly and outbound serialisation share no state.
Rests on the spec's own decision D16. -/
def Obligations.HostBytesIndependentOfCodec : Prop :=
  ∀ (s t : State) (b : Byte) (fc : FrameCodec),
    exec (.hostByte b) s = .next t → t.fc = s.fc ∧ exec (.hostByte b) { s with fc := fc } = .next { t with fc := fc }

/-- A remote byte leaves a transaction in flight alone unless it is stalled, and never changes the block size:
staged data and counts are fixed at the request (20_memory.md section 6). Rests on the spec's own decision D29. -/
def Obligations.RemoteBytesLeaveTransactionsAlone : Prop :=
  ∀ (s t : State) (b : Byte), exec (.remoteByte b) s = .next t →
    (s.te.stage ≠ .stalled → t.te = s.te ∧ t.ack = s.ack) ∧
    (s.te.stage = .stalled → t.te = s.te ∧ t.ack = s.ack ∨ t.te.stage = .awaitingRequest ∧ t.ack = false) ∧
    t.dc.block = s.dc.block

/-- A stalled transaction stays stalled under any number of host events: every byte is rejected and nothing of the
device changes. Rests on the spec's own decisions D10 and D17. -/
def Obligations.StallOutlastsHostTraffic : Prop :=
  ∀ (s : State) (es rest : List Event), s.cfg.codes.Wf s.cfg.reqWidth → AttnLevel s → s.te.stage = .stalled →
    (∀ e ∈ es, e.isHost = true) →
    ∃ outs t, runSteps es.length { s with input := es ++ rest } = some (outs, t) ∧
      t = { s with out := t.out, input := rest } ∧ (∀ o ∈ outs, o.tx = [])

/-- No coordination error is ever raised from a state with the invariant (60_exceptions.md, class (c)). Rests on the
spec's own decision D21. -/
def Obligations.CoordinationErrorsUnreachable : Prop :=
  ∀ s t : State, DeviceInv s → step s = .next t → ∀ d ∈ t.out.diag, d.isCoordinationError = false

/-- The attention line after every host or remote byte: in ClearOnEmpty the level of the flags; in ClearOnRead it
falls with an accepted STATUS read, rises when the flags become non-zero, and otherwise keeps its level (R243,
R244). Rests on the spec's own decision D13. -/
def Obligations.AttentionLineFollowsTheMode : Prop :=
  ∀ (s t : State) (b : Byte), s.cfg.codes.Wf s.cfg.reqWidth →
    exec (.hostByte b) s = .next t ∨ exec (.remoteByte b) s = .next t →
    (s.cfg.attnMode = .clearOnEmpty → t.attn = t.anyFlag) ∧
    (s.cfg.attnMode = .clearOnRead → exec (.hostByte b) s = .next t → StatusReadAccepted s t → t.attn = false) ∧
    (s.cfg.attnMode = .clearOnRead → ¬StatusReadAccepted s t → t.attn = (s.attn || (!s.anyFlag && t.anyFlag)))
end

