-- ==== Sys2Proof/Laws/Codec.lean ====
section
/-! SUPPORT. Sizes of encoded data and the laws of rounding. -/

namespace Sys2Proof

@[simp] theorem encU16_length (v : U16) : (encU16 v).length = 2 := rfl

@[simp] theorem encU32_length (v : U32) : (encU32 v).length = 4 := rfl

@[simp] theorem encodeHeader_length (h : Header) : (encodeHeader h).length = 11 := rfl

@[simp] theorem encodeFrame_length (ch : Byte) (addr : U32) (port : U16) (p : List Byte) :
    (encodeFrame ch addr port p).length = 11 + p.length := by
  simp [encodeFrame]

@[simp] theorem encodeRequest_length (wd : ReqWidth) (d : Dir) (a : RegAddr) :
    (encodeRequest wd d a).length = wd.bytes := by
  cases wd <;> rfl

theorem byteAt_append_left {l : List Byte} {k : Nat} (h : k < l.length) (r : List Byte) :
    byteAt (l ++ r) k = byteAt l k := by
  simp [byteAt, List.getD_eq_getElem?_getD, List.getElem?_append_left h]

theorem byteAt_append_right (l r : List Byte) (k : Nat) : byteAt (l ++ r) (l.length + k) = byteAt r k := by
  simp [byteAt, List.getD_eq_getElem?_getD, List.getElem?_append_right]

theorem decU16_append_left {l : List Byte} {off : Nat} (h : off + 2 ≤ l.length) (r : List Byte) :
    decU16 (l ++ r) off = decU16 l off := by
  simp only [decU16, byteAt_append_left (show off < l.length by omega),
    byteAt_append_left (show off + 1 < l.length by omega)]

theorem decU32_append_left {l : List Byte} {off : Nat} (h : off + 4 ≤ l.length) (r : List Byte) :
    decU32 (l ++ r) off = decU32 l off := by
  simp only [decU32, byteAt_append_left (show off < l.length by omega),
    byteAt_append_left (show off + 1 < l.length by omega), byteAt_append_left (show off + 2 < l.length by omega),
    byteAt_append_left (show off + 3 < l.length by omega)]

theorem decodeHeader_append_left {l : List Byte} (h : 11 ≤ l.length) (r : List Byte) :
    decodeHeader (l ++ r) = decodeHeader l := by
  simp only [decodeHeader, decU32_append_left (show 0 + 4 ≤ l.length by omega),
    decU32_append_left (show 4 + 4 ≤ l.length by omega), decU16_append_left (show 8 + 2 ≤ l.length by omega),
    byteAt_append_left (show 10 < l.length by omega)]

/-- When the frame decoder answers an instruction: the header and the declared payload are there, and the rest is what
follows them (R90, R141). -/
theorem decodeFrame_eq_instr {c : Codes} {l rest : List Byte} {i : Instr} :
    decodeFrame c l = .instr i rest ↔
      11 + (decodeHeader l).len.toNat ≤ l.length ∧
      i = frameInstr c (decodeHeader l) ((l.drop 11).take (decodeHeader l).len.toNat) ∧
      rest = l.drop (11 + (decodeHeader l).len.toNat) := by
  unfold decodeFrame headerSize
  by_cases h1 : l.length < 11
  · rw [if_pos h1]; simp; omega
  · by_cases h2 : l.length < 11 + (decodeHeader l).len.toNat
    · rw [if_neg h1]; simp only [if_pos h2, reduceCtorEq, false_iff]; omega
    · rw [if_neg h1]
      simp only [if_neg h2, Decoded.instr.injEq]
      constructor
      · rintro ⟨rfl, rfl⟩; exact ⟨by omega, rfl, rfl⟩
      · rintro ⟨-, rfl, rfl⟩; exact ⟨rfl, rfl⟩

/-- When the request decoder answers an instruction: a whole word is there (R97 to R99, R162). -/
theorem decodeRequest_eq_instr {c : Codes} {wd : ReqWidth} {q rest : List Byte} {i : Instr} :
    decodeRequest c wd q = .instr i rest ↔
      wd.bytes ≤ q.length ∧
      i = requestInstr wd (requestDir (requestWord wd q)) (requestAddr (requestWord wd q))
        (addressDecode c (requestAddr (requestWord wd q))) ∧
      rest = q.drop wd.bytes := by
  simp only [decodeRequest]
  by_cases h : q.length < wd.bytes
  · simp only [if_pos h, reduceCtorEq, false_iff]; omega
  · simp only [if_neg h, Decoded.instr.injEq]
    constructor
    · rintro ⟨rfl, rfl⟩; exact ⟨by omega, rfl, rfl⟩
    · rintro ⟨-, rfl, rfl⟩; exact ⟨rfl, rfl⟩

theorem roundup4_mod (v : Nat) : roundup4 v % 4 = 0 := by
  unfold roundup4; split <;> omega

theorem roundup4_eq (v : Nat) : roundup4 v = (v + 3) / 4 * 4 := by
  unfold roundup4; split <;> omega

theorem le_roundup4 (v : Nat) : v ≤ roundup4 v := by
  unfold roundup4; split <;> omega

/-- A value that R199 does not reject rounds to a u32. -/
theorem roundup4_lt {v : Nat} (h : v ≤ 0xFFFFFFFC) : roundup4 v < 2 ^ 32 := by
  rw [roundup4_eq]; omega

namespace Machine

theorem replaceField_length {p : List Byte} {off : Nat} (h : off + 4 ≤ p.length) (v : U32) :
    (replaceField p off v).length = p.length := by
  simp [replaceField]; omega

@[simp] theorem readMessage_length (c : Codes) (f : Frame) : (readMessage c f).length = f.payload.length := by
  unfold readMessage
  split
  · next h => exact replaceField_length h _
  · rfl

@[simp] theorem statusData_length (n : Nat) (w : U32) : (statusData n w).length = n := by
  simp [statusData]; omega

@[simp] theorem encodeSource_length (src : AudioSource) : (encodeSource src).length = 6 := rfl

@[simp] theorem wire_length (c : Codes) (f : Frame) : (wire c f).length = 11 + f.payload.length := by
  simp [wire]

/-- Below 2^32 bytes the length field is the length, and the free value plays no part. -/
theorem frameLen_of_lt {n : Nat} (h : n < 2 ^ 32) : frameLen n = BitVec.ofNat 32 n :=
  if_pos h

end Machine

end Sys2Proof
end

