-- ==== Sys2Proof/Laws/State.lean ====
section
/-! SUPPORT. One lemma per field per update of State, and which updates the flags see. -/

namespace Sys2Proof.Machine

/-! ### clearOut -/

@[simp] theorem State.clearOut_cfg (s : State) : s.clearOut.cfg = s.cfg := rfl

@[simp] theorem State.clearOut_fc (s : State) : s.clearOut.fc = s.fc := rfl

@[simp] theorem State.clearOut_te (s : State) : s.clearOut.te = s.te := rfl

@[simp] theorem State.clearOut_ack (s : State) : s.clearOut.ack = s.ack := rfl

@[simp] theorem State.clearOut_dc (s : State) : s.clearOut.dc = s.dc := rfl

@[simp] theorem State.clearOut_attn (s : State) : s.clearOut.attn = s.attn := rfl

@[simp] theorem State.clearOut_out (s : State) : s.clearOut.out = Output.empty := rfl

@[simp] theorem State.clearOut_input (s : State) : s.clearOut.input = s.input := rfl


/-! ### raise -/

@[simp] theorem State.raise_cfg (s : State) (d : Diag) : (s.raise d).cfg = s.cfg := rfl

@[simp] theorem State.raise_fc (s : State) (d : Diag) : (s.raise d).fc = s.fc := rfl

@[simp] theorem State.raise_te (s : State) (d : Diag) : (s.raise d).te = s.te := rfl

@[simp] theorem State.raise_ack (s : State) (d : Diag) : (s.raise d).ack = s.ack := rfl

@[simp] theorem State.raise_dc (s : State) (d : Diag) : (s.raise d).dc = s.dc := rfl

@[simp] theorem State.raise_attn (s : State) (d : Diag) : (s.raise d).attn = s.attn := rfl

@[simp] theorem State.raise_out (s : State) (d : Diag) : (s.raise d).out = { s.out with diag := s.out.diag ++ [d] } := rfl

@[simp] theorem State.raise_input (s : State) (d : Diag) : (s.raise d).input = s.input := rfl


/-! ### replyWith -/

@[simp] theorem State.replyWith_cfg (s : State) (b : Byte) : (s.replyWith b).cfg = s.cfg := rfl

@[simp] theorem State.replyWith_fc (s : State) (b : Byte) : (s.replyWith b).fc = s.fc := rfl

@[simp] theorem State.replyWith_te (s : State) (b : Byte) : (s.replyWith b).te = s.te := rfl

@[simp] theorem State.replyWith_ack (s : State) (b : Byte) : (s.replyWith b).ack = s.ack := rfl

@[simp] theorem State.replyWith_dc (s : State) (b : Byte) : (s.replyWith b).dc = s.dc := rfl

@[simp] theorem State.replyWith_attn (s : State) (b : Byte) : (s.replyWith b).attn = s.attn := rfl

@[simp] theorem State.replyWith_out (s : State) (b : Byte) : (s.replyWith b).out = { s.out with reply := some b } := rfl

@[simp] theorem State.replyWith_input (s : State) (b : Byte) : (s.replyWith b).input = s.input := rfl


/-! ### returning -/

@[simp] theorem State.returning_cfg (s : State) (r : Ret) : (s.returning r).cfg = s.cfg := rfl

@[simp] theorem State.returning_fc (s : State) (r : Ret) : (s.returning r).fc = s.fc := rfl

@[simp] theorem State.returning_te (s : State) (r : Ret) : (s.returning r).te = s.te := rfl

@[simp] theorem State.returning_ack (s : State) (r : Ret) : (s.returning r).ack = s.ack := rfl

@[simp] theorem State.returning_dc (s : State) (r : Ret) : (s.returning r).dc = s.dc := rfl

@[simp] theorem State.returning_attn (s : State) (r : Ret) : (s.returning r).attn = s.attn := rfl

@[simp] theorem State.returning_out (s : State) (r : Ret) : (s.returning r).out = { s.out with ret := r } := rfl

@[simp] theorem State.returning_input (s : State) (r : Ret) : (s.returning r).input = s.input := rfl


/-! ### emitAll -/

@[simp] theorem State.emitAll_cfg (s : State) (l : List Byte) : (s.emitAll l).cfg = s.cfg := rfl

@[simp] theorem State.emitAll_fc (s : State) (l : List Byte) : (s.emitAll l).fc = s.fc := rfl

@[simp] theorem State.emitAll_te (s : State) (l : List Byte) : (s.emitAll l).te = s.te := rfl

@[simp] theorem State.emitAll_ack (s : State) (l : List Byte) : (s.emitAll l).ack = s.ack := rfl

@[simp] theorem State.emitAll_dc (s : State) (l : List Byte) : (s.emitAll l).dc = s.dc := rfl

@[simp] theorem State.emitAll_attn (s : State) (l : List Byte) : (s.emitAll l).attn = s.attn := rfl

@[simp] theorem State.emitAll_out (s : State) (l : List Byte) : (s.emitAll l).out = { s.out with tx := s.out.tx ++ l } := rfl

@[simp] theorem State.emitAll_input (s : State) (l : List Byte) : (s.emitAll l).input = s.input := rfl


/-! ### updateAttn -/

@[simp] theorem State.updateAttn_cfg (s : State) (old new : U32) (r : Bool) : (s.updateAttn old new r).cfg = s.cfg := rfl

@[simp] theorem State.updateAttn_fc (s : State) (old new : U32) (r : Bool) : (s.updateAttn old new r).fc = s.fc := rfl

@[simp] theorem State.updateAttn_te (s : State) (old new : U32) (r : Bool) : (s.updateAttn old new r).te = s.te := rfl

@[simp] theorem State.updateAttn_ack (s : State) (old new : U32) (r : Bool) : (s.updateAttn old new r).ack = s.ack := rfl

@[simp] theorem State.updateAttn_dc (s : State) (old new : U32) (r : Bool) : (s.updateAttn old new r).dc = s.dc := rfl

@[simp] theorem State.updateAttn_attn (s : State) (old new : U32) (r : Bool) : (s.updateAttn old new r).attn = attnNext s.cfg.attnMode old new r s.attn := rfl

@[simp] theorem State.updateAttn_out (s : State) (old new : U32) (r : Bool) : (s.updateAttn old new r).out = s.out := rfl

@[simp] theorem State.updateAttn_input (s : State) (old new : U32) (r : Bool) : (s.updateAttn old new r).input = s.input := rfl


/-! ### send -/

@[simp] theorem send_cfg (fr : Frame) (s : State) : (send fr s).cfg = s.cfg := rfl

@[simp] theorem send_fc (fr : Frame) (s : State) : (send fr s).fc = s.fc := rfl

@[simp] theorem send_te (fr : Frame) (s : State) : (send fr s).te = s.te := rfl

@[simp] theorem send_ack (fr : Frame) (s : State) : (send fr s).ack = s.ack := rfl

@[simp] theorem send_dc (fr : Frame) (s : State) : (send fr s).dc = s.dc := rfl

@[simp] theorem send_attn (fr : Frame) (s : State) : (send fr s).attn = s.attn := rfl

@[simp] theorem send_out (fr : Frame) (s : State) :
    (send fr s).out = { s.out with tx := s.out.tx ++ wire s.cfg.codes fr } := rfl

@[simp] theorem send_input (fr : Frame) (s : State) : (send fr s).input = s.input := rfl


/-! ### complete -/

@[simp] theorem complete_cfg (s : State) : (complete s).cfg = s.cfg := rfl

@[simp] theorem complete_fc (s : State) : (complete s).fc = s.fc := rfl

@[simp] theorem complete_te (s : State) :
    (complete s).te = { s.te with buf := [], remaining := 0, stage := .awaitingRequest } := rfl

@[simp] theorem complete_ack (s : State) : (complete s).ack = false := rfl

@[simp] theorem complete_dc (s : State) : (complete s).dc = s.dc := rfl

@[simp] theorem complete_attn (s : State) : (complete s).attn = s.attn := rfl

@[simp] theorem complete_out (s : State) : (complete s).out = s.out := rfl

@[simp] theorem complete_input (s : State) : (complete s).input = s.input := rfl


/-! ### enterData -/

@[simp] theorem enterData_cfg (r : Reg) (d : Dir) (buf : List Byte) (n : Nat) (s : State) :
    (enterData r d buf n s).cfg = s.cfg := rfl

@[simp] theorem enterData_fc (r : Reg) (d : Dir) (buf : List Byte) (n : Nat) (s : State) :
    (enterData r d buf n s).fc = s.fc := rfl

@[simp] theorem enterData_te (r : Reg) (d : Dir) (buf : List Byte) (n : Nat) (s : State) :
    (enterData r d buf n s).te = { s.te with reg := r, dir := d, buf := buf, remaining := n, stage := .awaitingData } := rfl

@[simp] theorem enterData_ack (r : Reg) (d : Dir) (buf : List Byte) (n : Nat) (s : State) :
    (enterData r d buf n s).ack = true := rfl

@[simp] theorem enterData_dc (r : Reg) (d : Dir) (buf : List Byte) (n : Nat) (s : State) :
    (enterData r d buf n s).dc = s.dc := rfl

@[simp] theorem enterData_attn (r : Reg) (d : Dir) (buf : List Byte) (n : Nat) (s : State) :
    (enterData r d buf n s).attn = s.attn := rfl

@[simp] theorem enterData_out (r : Reg) (d : Dir) (buf : List Byte) (n : Nat) (s : State) :
    (enterData r d buf n s).out = s.out := rfl

@[simp] theorem enterData_input (r : Reg) (d : Dir) (buf : List Byte) (n : Nat) (s : State) :
    (enterData r d buf n s).input = s.input := rfl


/-! ### resetAll -/

@[simp] theorem resetAll_cfg (s : State) : (resetAll s).cfg = s.cfg := rfl

@[simp] theorem resetAll_fc (s : State) : (resetAll s).fc = { acc := [], hdr := none } := rfl

@[simp] theorem resetAll_te (s : State) :
    (resetAll s).te = { stage := .awaitingRequest, req := [], reg := .status, dir := .read, remaining := 0, buf := [] } := rfl

@[simp] theorem resetAll_ack (s : State) : (resetAll s).ack = false := rfl

@[simp] theorem resetAll_dc (s : State) :
    (resetAll s).dc = { connected := false, audio := .disconnected, err := false, msgq := [], abuf := [], block := s.cfg.defaultBlock } := rfl

@[simp] theorem resetAll_attn (s : State) : (resetAll s).attn = false := rfl

@[simp] theorem resetAll_out (s : State) : (resetAll s).out = Output.empty := rfl

@[simp] theorem resetAll_input (s : State) : (resetAll s).input = s.input := rfl


/-! ### The status flags depend on the coordinator and the flag bits alone (R240) -/

theorem State.flags_congr {s t : State} (hc : s.cfg = t.cfg) (hd : s.dc = t.dc) : s.flags = t.flags := by
  simp [State.flags, State.hasQueuedMessage, State.hasAudioBlockReady, hc, hd]

theorem State.anyFlag_congr {s t : State} (hd : s.dc = t.dc) : s.anyFlag = t.anyFlag := by
  simp [State.anyFlag, State.hasQueuedMessage, State.hasAudioBlockReady, hd]

@[simp] theorem State.clearOut_flags (s : State) : s.clearOut.flags = s.flags := rfl

@[simp] theorem State.raise_flags (s : State) (d : Diag) : (s.raise d).flags = s.flags := rfl

@[simp] theorem State.replyWith_flags (s : State) (b : Byte) : (s.replyWith b).flags = s.flags := rfl

@[simp] theorem State.emitAll_flags (s : State) (l : List Byte) : (s.emitAll l).flags = s.flags := rfl

@[simp] theorem State.updateAttn_flags (s : State) (old new : U32) (r : Bool) :
    (s.updateAttn old new r).flags = s.flags := rfl

@[simp] theorem send_flags (fr : Frame) (s : State) : (send fr s).flags = s.flags := rfl

@[simp] theorem complete_flags (s : State) : (complete s).flags = s.flags := rfl

@[simp] theorem enterData_flags (r : Reg) (d : Dir) (buf : List Byte) (n : Nat) (s : State) :
    (enterData r d buf n s).flags = s.flags := rfl

end Sys2Proof.Machine
end

