-- ==== Sys2Proof/Laws/Flags.lean ====
section
/-! SUPPORT. When the status word is zero, and what `UpdateAttn` does to the line. -/

namespace Sys2Proof.Machine

theorem flagBit_eq_zero {b : Bool} {k : Nat} (hk : k < 32) : flagBit b k = 0#32 ↔ b = false := by
  cases b
  · simp [flagBit]
  · simp only [flagBit, if_true, Bool.true_eq_false, iff_false]
    intro h
    have := congrArg (fun v => v.getLsbD k) h
    simp [hk] at this

theorem or_eq_zero_iff {w : Nat} (a b : BitVec w) : a ||| b = 0#w ↔ a = 0#w ∧ b = 0#w := by
  constructor
  · intro h
    refine ⟨BitVec.eq_of_getLsbD_eq fun i hi => ?_, BitVec.eq_of_getLsbD_eq fun i hi => ?_⟩ <;>
    · have := congrArg (fun v => v.getLsbD i) h
      simp at this
      simp [this]
  · rintro ⟨rfl, rfl⟩; simp

/-- With the flag bits inside the word, the status word is zero exactly when no flag is set (R38, R240). -/
theorem State.flags_eq_zero_iff {s : State} {wd : ReqWidth} (h : s.cfg.codes.Wf wd) :
    s.flags = 0#32 ↔ s.anyFlag = false := by
  obtain ⟨-, -, -, -, hb, -⟩ := h
  have h1 := hb s.cfg.codes.flagErrBit (by simp [Codes.flagBits])
  have h2 := hb s.cfg.codes.flagMsgBit (by simp [Codes.flagBits])
  have h3 := hb s.cfg.codes.flagAudioBit (by simp [Codes.flagBits])
  simp only [State.flags, or_eq_zero_iff, flagBit_eq_zero h1, flagBit_eq_zero h2, flagBit_eq_zero h3,
    State.anyFlag, Bool.or_eq_false_iff]

theorem attnNext_clearOnEmpty (old new : U32) (r a : Bool) :
    attnNext .clearOnEmpty old new r a = decide (new ≠ 0) := rfl

theorem attnNext_clearOnRead_read (old new : U32) (a : Bool) : attnNext .clearOnRead old new true a = false := rfl

/-- Between states `s` and `t` of one configuration, `UpdateAttn` without a STATUS read is `attnAfter` (R243, R244). -/
theorem attnNext_eq_attnAfter {s t : State} (hc : t.cfg = s.cfg) (hw : s.cfg.codes.Wf s.cfg.reqWidth) :
    attnNext s.cfg.attnMode s.flags t.flags false s.attn = s.attnAfter t.anyFlag := by
  have hs := State.flags_eq_zero_iff hw
  have ht := State.flags_eq_zero_iff (s := t) (by rw [hc]; exact hw)
  unfold attnNext State.attnAfter
  cases s.cfg.attnMode
  · by_cases h : t.flags = 0#32
    · simp [h, ht.mp h]
    · have := mt ht.mpr h
      simp_all
  · by_cases h1 : s.flags = 0#32 <;> by_cases h2 : t.flags = 0#32
    · simp [h1, h2, hs.mp h1, ht.mp h2]
    · have := mt ht.mpr h2
      simp_all
    · have := mt hs.mpr h1
      simp_all
    · have a1 := mt hs.mpr h1
      have a2 := mt ht.mpr h2
      simp_all

/-- A step that leaves the flags as they were leaves the line as it was (R246). -/
theorem State.attnAfter_same {s : State} (h : AttnLevel s) : s.attnAfter s.anyFlag = s.attn := by
  unfold State.attnAfter
  unfold AttnLevel at h
  cases hm : s.cfg.attnMode
  · simp [h hm]
  · cases s.anyFlag <;> simp

end Sys2Proof.Machine
end

