-- ==== Sys2Proof/Laws/Ops.lean ====
section
/-! SUPPORT. For each shared operation, once, everything it can do. -/

namespace Sys2Proof.Machine

/-! ### UpdateAttn at the end of a step -/

/-- `UpdateAttn` without a STATUS read, between a state and one with its configuration and line (R242). -/
theorem updateAttn_eq_attnAfter {s t : State} (hc : t.cfg = s.cfg) (ha : t.attn = s.attn)
    (hw : s.cfg.codes.Wf s.cfg.reqWidth) :
    t.updateAttn s.flags t.flags false = { t with attn := s.attnAfter t.anyFlag } := by
  simp only [State.updateAttn, hc, ha, attnNext_eq_attnAfter hc hw]

/-- `UpdateAttn` after a step that left the flags, the configuration and the line as they were. -/
theorem updateAttn_same {s t : State} (hc : t.cfg = s.cfg) (hd : t.dc = s.dc) (ha : t.attn = s.attn)
    (hw : s.cfg.codes.Wf s.cfg.reqWidth) (hl : AttnLevel s) :
    t.updateAttn s.flags s.flags false = t := by
  have := updateAttn_eq_attnAfter hc ha hw
  rw [State.flags_congr hc hd, State.anyFlag_congr hd, State.attnAfter_same hl, ← ha] at this
  exact this

/-- `UpdateAttn` with the status word of the state it ends in gives the level of the flags in `ClearOnEmpty`
(R243). -/
theorem updateAttn_level {s : State} (old : U32) (r : Bool) (hw : s.cfg.codes.Wf s.cfg.reqWidth) :
    AttnLevel (s.updateAttn old s.flags r) := by
  intro hm
  have hm : s.cfg.attnMode = .clearOnEmpty := hm
  have k := State.flags_eq_zero_iff (s := s) hw
  rw [show (s.updateAttn old s.flags r).anyFlag = s.anyFlag from rfl]
  simp only [State.updateAttn_attn, hm, attnNext]
  by_cases h : s.flags = 0#32
  · simp [h, k.mp h]
  · have := mt k.mpr h
    simp at this
    simp [h, this]

/-- `UpdateAttn` after an accepted STATUS read (R243, R244). -/
theorem updateAttn_statusRead {s t : State} (old : U32) (hc : t.cfg = s.cfg)
    (hw : s.cfg.codes.Wf s.cfg.reqWidth) :
    t.updateAttn old t.flags true = { t with
      attn := match s.cfg.attnMode with
        | .clearOnEmpty => t.anyFlag
        | .clearOnRead => false } := by
  have hl := updateAttn_level (s := t) old true (by rw [hc]; exact hw)
  cases hm : s.cfg.attnMode with
  | clearOnEmpty =>
    have := hl (by simpa [hc] using hm)
    simp only [State.updateAttn] at this ⊢
    rw [this]
    rfl
  | clearOnRead => simp only [State.updateAttn, hc, hm, attnNext, if_true]

/-! ### Completion and unblock -/

/-- `UNBLOCK` completes a stalled transaction or raises the coordination error (R169). -/
theorem unblock_cases (s : State) :
    (s.te.stage = .stalled ∧ unblock s = complete s) ∨
    (s.te.stage ≠ .stalled ∧ unblock s = s.raise .unblockWhileNotStalled) := by
  unfold unblock
  cases s.te.stage <;> simp

@[simp] theorem unblock_cfg (s : State) : (unblock s).cfg = s.cfg := by
  rcases unblock_cases s with ⟨-, h⟩ | ⟨-, h⟩ <;> simp [h]

@[simp] theorem unblock_fc (s : State) : (unblock s).fc = s.fc := by
  rcases unblock_cases s with ⟨-, h⟩ | ⟨-, h⟩ <;> simp [h]

@[simp] theorem unblock_dc (s : State) : (unblock s).dc = s.dc := by
  rcases unblock_cases s with ⟨-, h⟩ | ⟨-, h⟩ <;> simp [h]

@[simp] theorem unblock_attn (s : State) : (unblock s).attn = s.attn := by
  rcases unblock_cases s with ⟨-, h⟩ | ⟨-, h⟩ <;> simp [h]

@[simp] theorem unblock_input (s : State) : (unblock s).input = s.input := by
  rcases unblock_cases s with ⟨-, h⟩ | ⟨-, h⟩ <;> simp [h]

@[simp] theorem unblock_tx (s : State) : (unblock s).out.tx = s.out.tx := by
  rcases unblock_cases s with ⟨-, h⟩ | ⟨-, h⟩ <;> simp [h]

@[simp] theorem unblock_reply (s : State) : (unblock s).out.reply = s.out.reply := by
  rcases unblock_cases s with ⟨-, h⟩ | ⟨-, h⟩ <;> simp [h]

/-! ### Reads and requests -/

/-- What a read of a register can do (R190 to R194): a read with data changes the error latch, the queue or the
audio buffer alone, each for its own register. -/
theorem regRead_cases (s : State) (r : Reg) :
    (r = .status ∧ regRead s r = .data (statusData s.cfg.codes.statusSize s.flags) { s with dc.err := false }) ∨
    (∃ f rest, r = .message ∧ s.dc.msgq = f :: rest ∧
      regRead s r = .data (readMessage s.cfg.codes f) { s with dc.msgq := rest }) ∨
    (r = .audioData ∧ s.dc.block.toNat ≤ s.dc.abuf.length ∧
      regRead s r = .data (s.dc.abuf.take s.dc.block.toNat) { s with dc.abuf := s.dc.abuf.drop s.dc.block.toNat }) ∨
    ((r = .message ∧ s.dc.msgq = [] ∨ r = .audioData ∧ s.dc.abuf.length < s.dc.block.toNat) ∧
      regRead s r = .unavailable) ∨
    ((r = .audioSource ∨ r = .audioBlockSize) ∧ regRead s r = .illegal) := by
  cases r
  · simp [regRead, statusRead]
  · cases h : s.dc.msgq <;> simp [regRead, messageRead, h]
  · simp [regRead]
  · simp [regRead]
  · by_cases h : s.dc.abuf.length < s.dc.block.toNat
    · simp [regRead, audioDataRead, h]
    · simp [regRead, audioDataRead, h]; omega

/-- What the acceptance of a read request can do (R164): one violation and no other change, or the data phase entered
with the data staged. -/
theorem acceptRead_cases (s : State) (r : Reg) :
    (∃ d, acceptRead r s = (s.raise d, false) ∧ (d = .readOfWriteOnly r ∨ d = .nothingAvailable r)) ∨
    (∃ bytes s1, regRead s r = .data bytes s1 ∧
      acceptRead r s = (enterData r .read bytes bytes.length s1, decide (r = .status))) := by
  unfold acceptRead
  cases regRead s r with
  | data bytes s1 => exact .inr ⟨bytes, s1, rfl, rfl⟩
  | unavailable => exact .inl ⟨_, rfl, .inr rfl⟩
  | illegal => exact .inl ⟨_, rfl, .inl rfl⟩

/-- What the acceptance of a write request can do (R165). -/
theorem acceptWrite_cases (s : State) (r : Reg) :
    (writeCount s.cfg.codes r = none ∧ acceptWrite r s = (s.raise (.writeToReadOnly r), false)) ∨
    (∃ n, writeCount s.cfg.codes r = some n ∧ acceptWrite r s = (enterData r .write [] n s, false)) := by
  unfold acceptWrite
  cases writeCount s.cfg.codes r <;> simp

/-! ### Write handlers -/

/-- What `MessageWrite` can do (R196). -/
theorem messageWrite_cases (buf : List Byte) (s : State) :
    (s.dc.connected = false ∧ messageWrite buf s = (true, s)) ∨
    (s.dc.connected = true ∧ ∃ l, messageWrite buf s = (true, s.emitAll l)) := by
  unfold messageWrite
  cases s.dc.connected
  · simp
  · exact .inr ⟨rfl, _, rfl⟩

/-- The ACM frame of an AUDIO_SOURCE write carries the source (R197, R198). -/
theorem wire_acm (cfg : Cfg) (src : AudioSource) :
    wire cfg.codes (makeFrame cfg .acm (encodeSource src)) =
      encU32 6 ++ encU32 cfg.remoteAddr ++ encU16 cfg.remotePort ++ [cfg.codes.chAcm] ++
        encU32 src.addr ++ encU16 src.port := by
  have h : frameLen 6 = 6 := rfl
  simp [wire, makeFrame, h, encodeHeader, encodeSource, channelCode]

/-- What `AudioSourceWrite` can do (R197): nothing, disconnect, or connect, each by its source. -/
theorem audioSourceWrite_cases (buf : List Byte) (s : State) :
    ((decU32 buf 0 = 0 ∧ decU16 buf 4 = 0) ∧ s.dc.audio = .disconnected ∧ audioSourceWrite buf s = (true, s)) ∨
    ((decU32 buf 0 = 0 ∧ decU16 buf 4 = 0) ∧ s.dc.audio ≠ .disconnected ∧
      audioSourceWrite buf s = (true, { s with dc.abuf := [], dc.audio := .disconnected }.emitAll
        (wire s.cfg.codes (makeFrame s.cfg .acm (encodeSource (decodeSource buf)))))) ∨
    (¬(decU32 buf 0 = 0 ∧ decU16 buf 4 = 0) ∧
      audioSourceWrite buf s = (false, { s with dc.abuf := [], dc.audio := .connecting }.emitAll
        (wire s.cfg.codes (makeFrame s.cfg .acm (encodeSource (decodeSource buf)))))) := by
  by_cases h : decU32 buf 0 = 0 ∧ decU16 buf 4 = 0
  · have hs : (decodeSource buf).isDisconnect = true := decide_eq_true h
    by_cases hd : s.dc.audio = .disconnected
    · exact .inl ⟨h, hd, by simp only [audioSourceWrite, hs, hd, if_true]⟩
    · exact .inr (.inl ⟨h, hd, by simp only [audioSourceWrite, hs, hd, if_true, if_false, send]⟩)
  · have hs : (decodeSource buf).isDisconnect = false := decide_eq_false h
    exact .inr (.inr ⟨h, by simp only [audioSourceWrite, hs, if_false, Bool.false_eq_true, send]⟩)

/-- What `AudioBlockSizeWrite` can do (R199): the violation alone, or the rounded size stored, with at most the
rounding warning. -/
theorem blockSizeWrite_cases (buf : List Byte) (s : State) :
    (blockSizeWrite buf s = (true, s.raise (.badBlockSize (decU32 buf 0)))) ∨
    (∃ n : U32, decU32 buf 0 ≠ 0 ∧ n.toNat = roundup4 (decU32 buf 0).toNat ∧
      (blockSizeWrite buf s = (true, { s with dc.block := n }) ∨
       blockSizeWrite buf s = (true, { s with dc.block := n }.raise (.blockSizeRounded (decU32 buf 0) n)))) := by
  by_cases h : decU32 buf 0 = 0 ∨ 0xFFFFFFFC < (decU32 buf 0).toNat
  · exact .inl (by simp only [blockSizeWrite, if_pos h])
  · have hlt := roundup4_lt (v := (decU32 buf 0).toNat) (by omega)
    refine .inr ⟨BitVec.ofNat 32 (roundup4 (decU32 buf 0).toNat), by simp_all, ?_, ?_⟩
    · simpa using hlt
    · simp only [blockSizeWrite, if_neg h]
      by_cases h1 : BitVec.ofNat 32 (roundup4 (decU32 buf 0).toNat) = decU32 buf 0 <;>
        by_cases h2 : BitVec.ofNat 32 (roundup4 (decU32 buf 0).toNat) = s.dc.block
      · left; rw [if_pos h1, if_pos h2, h2]
      · left; rw [if_pos h1, if_neg h2]
      · right; rw [if_neg h1, if_pos h2, h2]
      · right; rw [if_neg h1, if_neg h2]; rfl

/-! ### Dispatch -/

/-- What a Config frame can do (R221). -/
theorem onConfig_cases (f : Frame) (s : State) :
    (∃ d, onConfig f s = s.raise d ∧ (d = .emptyConfig ∨ d = .repeatedConfig)) ∨
    (f.len ≠ 0 ∧ s.dc.connected = false ∧
      onConfig f s = { s with dc.connected := true }.raise (.configAccepted f.payload)) := by
  unfold onConfig
  by_cases h : f.len = 0
  · exact .inl ⟨_, if_pos h, .inl rfl⟩
  · cases hc : s.dc.connected
    · exact .inr ⟨h, rfl, by rw [if_neg h]; rfl⟩
    · exact .inl ⟨.repeatedConfig, by rw [if_neg h]; rfl, .inr rfl⟩

/-- What a Control frame can do (R222). -/
theorem onControl_cases (f : Frame) (s : State) :
    (∃ d, onControl f s = s.raise d ∧
      (d = .controlWhileNotConnected ∨ d = .badMessageLength f.len ∨ d = .badMagic)) ∨
    (s.dc.connected = true ∧ s.cfg.msgMin ≤ f.len.toNat ∧ f.len.toNat ≤ s.cfg.msgMax ∧
      decU32 f.payload 0 = s.cfg.magic ∧ onControl f s = { s with dc.msgq := s.dc.msgq ++ [f] }) := by
  by_cases h1 : s.dc.connected = false
  · exact .inl ⟨_, by simp only [onControl, if_pos h1], .inl rfl⟩
  · by_cases h2 : f.len.toNat < s.cfg.msgMin ∨ s.cfg.msgMax < f.len.toNat
    · exact .inl ⟨_, by simp only [onControl, if_neg h1, if_pos h2], .inr (.inl rfl)⟩
    · by_cases h3 : decU32 f.payload 0 = s.cfg.magic
      · refine .inr ⟨by simpa using h1, by omega, by omega, h3, ?_⟩
        simp only [onControl, if_neg h1, if_neg h2, ne_eq, h3, not_true_eq_false, if_false]
      · exact .inl ⟨_, by simp only [onControl, if_neg h1, if_neg h2, ne_eq, h3, not_false_eq_true, if_true],
          .inr (.inr rfl)⟩

/-- What an Audio frame can do (R223). -/
theorem onAudio_cases (f : Frame) (s : State) :
    ((s.dc.connected = false ∨ s.dc.audio ≠ .connected) ∧ onAudio f s = s.raise .audioWhileNotConnected) ∨
    (s.dc.connected = true ∧ s.dc.audio = .connected ∧
      onAudio f s = { s with dc.abuf := s.dc.abuf ++ f.payload }) := by
  by_cases h : s.dc.connected = false ∨ s.dc.audio ≠ .connected
  · exact .inl ⟨h, if_pos h⟩
  · refine .inr ⟨?_, ?_, if_neg h⟩ <;> simp_all

/-- What an ACM frame can do (R224). -/
theorem onAcm_cases (f : Frame) (s : State) :
    (∃ d, onAcm f s = s.raise d ∧ (d = .badAcmLength f.len ∨ ∃ st code, d = .unexpectedAcm st code)) ∨
    (f.len = 1 ∧ byteAt f.payload 0 = 0 ∧ s.dc.audio = .connecting ∧
      onAcm f s = unblock { s with dc.audio := .connected }) ∨
    (f.len = 1 ∧ byteAt f.payload 0 ≠ 0 ∧ s.dc.audio = .connecting ∧
      onAcm f s = unblock { s with dc.audio := .disconnected, dc.err := true }) ∨
    (f.len = 1 ∧ byteAt f.payload 0 ≠ 0 ∧ s.dc.audio = .connected ∧
      onAcm f s = { s with dc.audio := .disconnected, dc.err := true }) := by
  by_cases h : f.len = 1
  · have hn : ¬f.len ≠ 1 := not_not_intro h
    by_cases hc : byteAt f.payload 0 = 0 <;> cases ha : s.dc.audio <;>
      simp only [onAcm, if_neg hn, ha, hc, if_true, if_false]
    · exact .inl ⟨_, rfl, .inr ⟨_, _, rfl⟩⟩
    · exact .inr (.inl ⟨h, trivial, trivial, trivial⟩)
    · exact .inl ⟨_, rfl, .inr ⟨_, _, rfl⟩⟩
    · exact .inl ⟨_, rfl, .inr ⟨_, _, rfl⟩⟩
    · exact .inr (.inr (.inl ⟨h, hc, trivial, trivial⟩))
    · exact .inr (.inr (.inr ⟨h, hc, trivial, trivial⟩))
  · exact .inl ⟨_, by simp only [onAcm, if_pos (show f.len ≠ 1 from h)], .inl rfl⟩

/-! ### What no frame handler touches -/

@[simp] theorem onConfig_cfg (f : Frame) (s : State) : (onConfig f s).cfg = s.cfg := by
  rcases onConfig_cases f s with ⟨d, h, -⟩ | ⟨-, -, h⟩ <;> simp [h]

@[simp] theorem onControl_cfg (f : Frame) (s : State) : (onControl f s).cfg = s.cfg := by
  rcases onControl_cases f s with ⟨d, h, -⟩ | ⟨-, -, -, -, h⟩ <;> simp [h]

@[simp] theorem onAudio_cfg (f : Frame) (s : State) : (onAudio f s).cfg = s.cfg := by
  rcases onAudio_cases f s with ⟨-, h⟩ | ⟨-, -, h⟩ <;> simp [h]

@[simp] theorem onAcm_cfg (f : Frame) (s : State) : (onAcm f s).cfg = s.cfg := by
  rcases onAcm_cases f s with ⟨d, h, -⟩ | ⟨-, -, -, h⟩ | ⟨-, -, -, h⟩ | ⟨-, -, -, h⟩ <;> simp [h]

@[simp] theorem dispatch_cfg (f : Frame) (s : State) : (dispatch f s).cfg = s.cfg := by
  unfold dispatch; cases f.chan <;> simp

/-- A dispatched frame touches neither the codec, the line nor the waiting events, replies nothing and sends nothing
(R141, R227). -/
theorem dispatch_frame (f : Frame) (s : State) :
    (dispatch f s).fc = s.fc ∧ (dispatch f s).attn = s.attn ∧ (dispatch f s).input = s.input ∧
    (dispatch f s).out.tx = s.out.tx ∧ (dispatch f s).out.reply = s.out.reply ∧
    (dispatch f s).dc.block = s.dc.block := by
  unfold dispatch
  cases f.chan
  · rcases onConfig_cases f s with ⟨d, h, -⟩ | ⟨-, -, h⟩ <;> simp [h]
  · rcases onControl_cases f s with ⟨d, h, -⟩ | ⟨-, -, -, -, h⟩ <;> simp [h]
  · rcases onAudio_cases f s with ⟨-, h⟩ | ⟨-, -, h⟩ <;> simp [h]
  · rcases onAcm_cases f s with ⟨d, h, -⟩ | ⟨-, -, -, h⟩ | ⟨-, -, -, h⟩ | ⟨-, -, -, h⟩ <;> simp [h]

/-- What a dispatched frame can do to the two machines (R220 to R224, R227): leave the engine, the audio state and the
error latch alone, or, an ACM frame of one byte alone, end the connecting phase through `UNBLOCK` or end a
connection, by its code. -/
theorem dispatch_cases (f : Frame) (s : State) :
    ((dispatch f s).te = s.te ∧ (dispatch f s).ack = s.ack ∧ (dispatch f s).dc.audio = s.dc.audio ∧
      (dispatch f s).dc.err = s.dc.err) ∨
    (f.chan = .acm ∧ f.len = 1 ∧
      (byteAt f.payload 0 = 0 ∧ s.dc.audio = .connecting ∧
        dispatch f s = unblock { s with dc.audio := .connected } ∨
       byteAt f.payload 0 ≠ 0 ∧ s.dc.audio = .connecting ∧
        dispatch f s = unblock { s with dc.audio := .disconnected, dc.err := true } ∨
       byteAt f.payload 0 ≠ 0 ∧ s.dc.audio = .connected ∧
        dispatch f s = { s with dc.audio := .disconnected, dc.err := true })) := by
  unfold dispatch
  cases f.chan
  · left; rcases onConfig_cases f s with ⟨d, h, -⟩ | ⟨-, -, h⟩ <;> simp [h]
  · left; rcases onControl_cases f s with ⟨d, h, -⟩ | ⟨-, -, -, -, h⟩ <;> simp [h]
  · left; rcases onAudio_cases f s with ⟨-, h⟩ | ⟨-, -, h⟩ <;> simp [h]
  · rcases onAcm_cases f s with ⟨d, h, -⟩ | ⟨hl, h⟩ | ⟨hl, h⟩ | ⟨hl, h⟩
    · left; simp [h]
    · exact .inr ⟨rfl, hl, .inl h⟩
    · exact .inr ⟨rfl, hl, .inr (.inl h)⟩
    · exact .inr ⟨rfl, hl, .inr (.inr h)⟩

/-! ### Register writes as a whole -/

/-- What no write handler touches (R190 to R203), and that only a connect request stalls (R174, R197). -/
theorem regWrite_frame (r : Reg) (buf : List Byte) (s : State) :
    (regWrite r buf s).2.cfg = s.cfg ∧ (regWrite r buf s).2.fc = s.fc ∧ (regWrite r buf s).2.te = s.te ∧
    (regWrite r buf s).2.ack = s.ack ∧ (regWrite r buf s).2.attn = s.attn ∧ (regWrite r buf s).2.input = s.input ∧
    (regWrite r buf s).2.out.reply = s.out.reply ∧ (regWrite r buf s).2.dc.connected = s.dc.connected ∧
    (regWrite r buf s).2.dc.err = s.dc.err ∧ (regWrite r buf s).2.dc.msgq = s.dc.msgq ∧
    ((regWrite r buf s).1 = false → r = .audioSource ∧ (regWrite r buf s).2.dc.audio = .connecting) := by
  cases r <;> simp only [regWrite]
  · simp
  · rcases messageWrite_cases buf s with ⟨-, h⟩ | ⟨-, l, h⟩ <;> simp [h]
  · rcases audioSourceWrite_cases buf s with ⟨-, -, h⟩ | ⟨-, -, h⟩ | ⟨-, h⟩ <;> simp [h]
  · rcases blockSizeWrite_cases buf s with h | ⟨n, -, -, h | h⟩ <;> simp [h]
  · simp

/-- The state in which a write handler is called (R166): the buffer is emptied, nothing is pending, the reply is
`FILLER`. -/
def State.atHandler (s : State) : State :=
  { s with te.buf := [], te.remaining := 0, out := Output.host s.cfg.codes.filler [] [] }

/-- The last data byte of a write: the handler is called with the whole buffer, its result completes or stalls
(R166). -/
theorem dataWrite_last {s : State} (h : s.te.remaining - 1 = 0) (b : Byte) :
    dataWrite b s.clearOut =
      if (regWrite s.te.reg (s.te.buf ++ [b]) s.atHandler).1 then
        complete (regWrite s.te.reg (s.te.buf ++ [b]) s.atHandler).2
      else { (regWrite s.te.reg (s.te.buf ++ [b]) s.atHandler).2 with te.stage := .stalled } := by
  unfold dataWrite
  simp only [State.clearOut_te, h, State.replyWith_te, if_true]
  rfl

/-- What a data byte can do (R166): move the buffer, perhaps completing a read, or call a write handler. -/
theorem dataStep_cases (b : Byte) (s : State) :
    ((dataStep b s).dc = s.dc ∧ (dataStep b s).out.tx = [] ∧ (dataStep b s).out.diag = [] ∧
      ((dataStep b s).te.stage = s.te.stage ∨ (dataStep b s).te.stage = .awaitingRequest) ∧
      (dataStep b s).out.reply.isSome) ∨
    (s.te.dir = .write ∧ s.te.remaining ≤ 1 ∧
      ∃ r, r = regWrite s.te.reg (s.te.buf ++ [b]) s.atHandler ∧ dataStep b s =
        (if r.1 then complete r.2 else { r.2 with te.stage := .stalled }).updateAttn s.flags
          (if r.1 then complete r.2 else { r.2 with te.stage := .stalled }).flags false) := by
  unfold dataStep
  cases hd : s.te.dir
  · left
    simp only [dataRead]
    split <;> simp [Output.empty]
  · by_cases hr : s.te.remaining - 1 = 0
    · exact .inr ⟨rfl, by omega, _, rfl, by simp only [dataWrite_last hr]⟩
    · left
      simp only [dataWrite]
      rw [if_neg (by simpa using hr)]
      simp [Output.empty]

end Sys2Proof.Machine
end

