-- ==== Sys2Proof/Laws/PerInstr.lean ====
section
/-! SUPPORT. Families of facts about every instruction as syntax, one lemma per constructor. -/

namespace Sys2Proof.Laws

/-- An operation's encoding is empty exactly when it travels on no stream, and a request takes `REQ_WIDTH` bytes
(R96, R113). -/
def WireLength.Statement (i : Instr) : Prop :=
  ∀ c : Codes,
    (i.link = none → encode c i = []) ∧
    (∀ wd, i.link = some (.host wd) → (encode c i).length = wd.bytes) ∧
    (i.link = some .frame → 11 ≤ (encode c i).length)

theorem WireLength.rdStatus (wd : ReqWidth) : WireLength.Statement (.rdStatus wd) := by
  simp [WireLength.Statement, Instr.link, encode]

theorem WireLength.wrStatus (wd : ReqWidth) : WireLength.Statement (.wrStatus wd) := by
  simp [WireLength.Statement, Instr.link, encode]

theorem WireLength.rdMessage (wd : ReqWidth) : WireLength.Statement (.rdMessage wd) := by
  simp [WireLength.Statement, Instr.link, encode]

theorem WireLength.wrMessage (wd : ReqWidth) : WireLength.Statement (.wrMessage wd) := by
  simp [WireLength.Statement, Instr.link, encode]

theorem WireLength.rdAudioSource (wd : ReqWidth) : WireLength.Statement (.rdAudioSource wd) := by
  simp [WireLength.Statement, Instr.link, encode]

theorem WireLength.wrAudioSource (wd : ReqWidth) : WireLength.Statement (.wrAudioSource wd) := by
  simp [WireLength.Statement, Instr.link, encode]

theorem WireLength.rdAudioBlockSize (wd : ReqWidth) : WireLength.Statement (.rdAudioBlockSize wd) := by
  simp [WireLength.Statement, Instr.link, encode]

theorem WireLength.wrAudioBlockSize (wd : ReqWidth) : WireLength.Statement (.wrAudioBlockSize wd) := by
  simp [WireLength.Statement, Instr.link, encode]

theorem WireLength.rdAudioData (wd : ReqWidth) : WireLength.Statement (.rdAudioData wd) := by
  simp [WireLength.Statement, Instr.link, encode]

theorem WireLength.wrAudioData (wd : ReqWidth) : WireLength.Statement (.wrAudioData wd) := by
  simp [WireLength.Statement, Instr.link, encode]

theorem WireLength.reqUndefined (wd : ReqWidth) (dir : Dir) (a : RegAddr) : WireLength.Statement (.reqUndefined wd dir a) := by
  simp [WireLength.Statement, Instr.link, encode]

theorem WireLength.frameConfig (addr : U32) (port : U16) (p : List Byte) : WireLength.Statement (.frameConfig addr port p) := by
  simp [WireLength.Statement, Instr.link, encode]

theorem WireLength.frameControl (addr : U32) (port : U16) (p : List Byte) : WireLength.Statement (.frameControl addr port p) := by
  simp [WireLength.Statement, Instr.link, encode]

theorem WireLength.frameAudio (addr : U32) (port : U16) (p : List Byte) : WireLength.Statement (.frameAudio addr port p) := by
  simp [WireLength.Statement, Instr.link, encode]

theorem WireLength.frameAcm (addr : U32) (port : U16) (p : List Byte) : WireLength.Statement (.frameAcm addr port p) := by
  simp [WireLength.Statement, Instr.link, encode]

theorem WireLength.frameUndefined (ch : Byte) (addr : U32) (port : U16) (p : List Byte) : WireLength.Statement (.frameUndefined ch addr port p) := by
  simp [WireLength.Statement, Instr.link, encode]

theorem WireLength.hostByte (b : Byte) : WireLength.Statement (.hostByte b) := by
  simp [WireLength.Statement, Instr.link, encode]

theorem WireLength.hostFinish : WireLength.Statement (.hostFinish) := by
  simp [WireLength.Statement, Instr.link, encode]

theorem WireLength.remoteByte (b : Byte) : WireLength.Statement (.remoteByte b) := by
  simp [WireLength.Statement, Instr.link, encode]

theorem WireLength.reset : WireLength.Statement (.reset) := by
  simp [WireLength.Statement, Instr.link, encode]

theorem WireLength.send (f : Frame) : WireLength.Statement (.send f) := by
  simp [WireLength.Statement, Instr.link, encode]

theorem WireLength.unblock : WireLength.Statement (.unblock) := by
  simp [WireLength.Statement, Instr.link, encode]

theorem WireLength.dispatch (f : Frame) : WireLength.Statement (.dispatch f) := by
  simp [WireLength.Statement, Instr.link, encode]

theorem WireLength.complete : WireLength.Statement (.complete) := by
  simp [WireLength.Statement, Instr.link, encode]

theorem WireLength.updateAttn (old new : U32) (r : Bool) : WireLength.Statement (.updateAttn old new r) := by
  simp [WireLength.Statement, Instr.link, encode]

theorem WireLength.encU16 (v : U16) : WireLength.Statement (.encU16 v) := by
  simp [WireLength.Statement, Instr.link, encode]

theorem WireLength.encU32 (v : U32) : WireLength.Statement (.encU32 v) := by
  simp [WireLength.Statement, Instr.link, encode]

theorem WireLength.decU16 (l : List Byte) (off : Nat) : WireLength.Statement (.decU16 l off) := by
  simp [WireLength.Statement, Instr.link, encode]

theorem WireLength.decU32 (l : List Byte) (off : Nat) : WireLength.Statement (.decU32 l off) := by
  simp [WireLength.Statement, Instr.link, encode]

theorem WireLength.construct (p : Params) : WireLength.Statement (.construct p) := by
  simp [WireLength.Statement, Instr.link, encode]

end Sys2Proof.Laws
end

