-- ==== Sys2Proof/Laws/Step.lean ====
section
/-! SUPPORT. What the atomic steps of the block can do: one inversion lemma per event, and one for `step`. -/

namespace Sys2Proof.Machine

/-- The acceptance that a request word names (R162 to R165). -/
def requestAct (dir : Dir) (a : RegAddr) : Option Reg → State → State × Bool
  | none => rejectUndefined a
  | some r => match dir with
    | .read => acceptRead r
    | .write => acceptWrite r

theorem runRequest_eq (dir : Dir) (a : RegAddr) (reg : Option Reg) (s : State) :
    runRequest dir a reg s = .next (requestStep (requestAct dir a reg) s) := by
  cases reg with
  | none => rfl
  | some r => cases r <;> cases dir <;> rfl

/-- A request operation is the step its word names. -/
theorem exec_requestInstr (wd : ReqWidth) (dir : Dir) (a : RegAddr) (reg : Option Reg) (s : State) :
    exec (requestInstr wd dir a reg) s = .next (requestStep (requestAct dir a reg) s) := by
  cases reg with
  | none => rfl
  | some r => cases r <;> cases dir <;> rfl

/-- What no acceptance of a request touches (R163 to R165). -/
theorem requestAct_frame (dir : Dir) (a : RegAddr) (reg : Option Reg) (s : State) :
    (requestAct dir a reg s).1.cfg = s.cfg ∧ (requestAct dir a reg s).1.fc = s.fc ∧
    (requestAct dir a reg s).1.attn = s.attn ∧ (requestAct dir a reg s).1.input = s.input ∧
    (requestAct dir a reg s).1.out.tx = s.out.tx ∧ (requestAct dir a reg s).1.out.reply = s.out.reply ∧
    (requestAct dir a reg s).1.dc.connected = s.dc.connected ∧ (requestAct dir a reg s).1.dc.audio = s.dc.audio ∧
    (requestAct dir a reg s).1.dc.block = s.dc.block := by
  cases reg with
  | none => simp [requestAct, rejectUndefined]
  | some r =>
    cases dir <;> simp only [requestAct]
    · rcases acceptRead_cases s r with ⟨d, h, -⟩ | ⟨bytes, s1, h1, h⟩
      · simp [h]
      · rw [h]
        rcases regRead_cases s r with ⟨-, h2⟩ | ⟨f, rest, -, -, h2⟩ | ⟨-, -, h2⟩ | ⟨-, h2⟩ | ⟨-, h2⟩ <;>
          rw [h1] at h2 <;> cases h2 <;> simp
    · rcases acceptWrite_cases s r with ⟨-, h⟩ | ⟨n, -, h⟩ <;> simp [h]

/-- A request is a STATUS read accepted exactly when the engine enters the data phase of one (R164). -/
theorem requestAct_statusRead (dir : Dir) (a : RegAddr) (reg : Option Reg) {s : State}
    (h : s.te.stage = .awaitingRequest) :
    (requestAct dir a reg s).2 = true ↔ StatusReadAccepted s (requestAct dir a reg s).1 := by
  unfold StatusReadAccepted
  cases reg with
  | none => simp [requestAct, rejectUndefined, h]
  | some r =>
    cases dir <;> simp only [requestAct]
    · rcases acceptRead_cases s r with ⟨d, e, -⟩ | ⟨bytes, s1, -, e⟩ <;> rw [e] <;> simp [h, enterData]
    · rcases acceptWrite_cases s r with ⟨-, e⟩ | ⟨n, -, e⟩ <;> rw [e] <;> simp [h, enterData]

/-- The dispatch that a channel byte names (R141, R143, R220). -/
def frameAct (c : Codes) (h : Header) (payload : List Byte) : State → State :=
  match channelDecode c h.chan with
  | some ch => dispatch (receivedFrame ch h.addr h.port payload)
  | none => dropFrame h.chan

theorem runFrame_eq (h : Header) (payload : List Byte) (s : State) :
    runFrame h payload s = .next (frameStep (frameAct s.cfg.codes h payload) s) := by
  unfold runFrame frameAct
  cases channelDecode s.cfg.codes h.chan with
  | none => rfl
  | some ch => cases ch <;> rfl

/-- A frame operation is the step its header names. -/
theorem exec_frameInstr (h : Header) (payload : List Byte) (s : State) :
    exec (frameInstr s.cfg.codes h payload) s = .next (frameStep (frameAct s.cfg.codes h payload) s) := by
  unfold frameInstr frameAct
  cases channelDecode s.cfg.codes h.chan with
  | none => rfl
  | some ch => cases ch <;> rfl

/-- A frame's act is a dispatch or a drop (R141, R143). -/
theorem frameAct_cases (c : Codes) (h : Header) (payload : List Byte) :
    (∃ ch, channelDecode c h.chan = some ch ∧ frameAct c h payload = dispatch (receivedFrame ch h.addr h.port payload)) ∨
    (channelDecode c h.chan = none ∧ frameAct c h payload = dropFrame h.chan) := by
  unfold frameAct
  cases channelDecode c h.chan with
  | none => exact .inr ⟨rfl, rfl⟩
  | some ch => exact .inl ⟨ch, rfl, rfl⟩

/-- The codec after one byte (R21, R141): one position further in the header or the payload, or the header decoded. -/
theorem codecNext_cases (fc : FrameCodec) (b : Byte) :
    (fc.hdr = none ∧ fc.acc.length = 10 ∧
      codecNext fc b = { acc := [], hdr := some (decodeHeader (fc.acc ++ [b])) }) ∨
    (¬(fc.hdr = none ∧ fc.acc.length = 10) ∧ codecNext fc b = { acc := fc.acc ++ [b], hdr := fc.hdr }) := by
  by_cases h : fc.hdr = none ∧ (fc.acc ++ [b]).length = headerSize
  · exact .inl ⟨h.1, by simpa [headerSize] using h.2, if_pos h⟩
  · exact .inr ⟨by simpa [headerSize] using h, if_neg h⟩

/-- A byte that completes a payload of one byte is that payload: the header had come and none of the payload. -/
theorem codecNext_single {fc : FrameCodec} {b : Byte} {h : Header} (hh : (codecNext fc b).hdr = some h)
    (hl : (codecNext fc b).acc.length = 1) : fc = { acc := [], hdr := some h } ∧ (codecNext fc b).acc = [b] := by
  rcases codecNext_cases fc b with ⟨-, -, e⟩ | ⟨-, e⟩
  · simp [e] at hl
  · obtain ⟨acc, hdr⟩ := fc
    simp only [e, List.length_append, List.length_cons, List.length_nil] at hh hl
    have : acc = [] := List.eq_nil_of_length_eq_zero (by omega)
    subst this hh
    exact ⟨rfl, congrArg FrameCodec.acc e⟩

/-- What a host byte can do (R161): extend a request word, take a request, move a data byte, or be rejected. -/
theorem execHostByte_cases (b : Byte) (s : State) :
    (s.te.stage = .awaitingRequest ∧ s.te.req.length + 1 < s.cfg.reqWidth.bytes ∧
      execHostByte b s = .next (partialRequest (s.te.req ++ [b]) s)) ∨
    (s.te.stage = .awaitingRequest ∧ s.cfg.reqWidth.bytes ≤ s.te.req.length + 1 ∧
      execHostByte b s = .next (requestStep
        (requestAct (requestDir (requestWord s.cfg.reqWidth (s.te.req ++ [b])))
          (requestAddr (requestWord s.cfg.reqWidth (s.te.req ++ [b])))
          (addressDecode s.cfg.codes (requestAddr (requestWord s.cfg.reqWidth (s.te.req ++ [b]))))) s)) ∨
    (s.te.stage = .awaitingData ∧ execHostByte b s = .next (dataStep b s)) ∨
    (s.te.stage = .stalled ∧ execHostByte b s = .next (stalledStep b s)) := by
  unfold execHostByte
  cases hs : s.te.stage
  · by_cases hq : (s.te.req ++ [b]).length < s.cfg.reqWidth.bytes
    · exact .inl ⟨rfl, by simpa using hq, if_pos hq⟩
    · refine .inr (.inl ⟨rfl, by simpa using hq, ?_⟩)
      simp only [requestByte, if_neg hq, runRequest_eq]
  · simp
  · simp

/-- What a remote byte can do (R141): move the codec one position, or complete a frame. -/
theorem execRemoteByte_cases (b : Byte) (s : State) :
    (execRemoteByte b s = .next (collectStep (codecNext s.fc b) s) ∧
      ∀ h, (codecNext s.fc b).hdr = some h → (codecNext s.fc b).acc.length ≠ h.len.toNat) ∨
    (∃ h, (codecNext s.fc b).hdr = some h ∧ (codecNext s.fc b).acc.length = h.len.toNat ∧
      execRemoteByte b s = .next (frameStep (frameAct s.cfg.codes h (codecNext s.fc b).acc) s)) := by
  unfold execRemoteByte
  cases hh : (codecNext s.fc b).hdr with
  | none => exact .inl ⟨by simp only [hh], by simp⟩
  | some h =>
    by_cases hl : (codecNext s.fc b).acc.length = h.len.toNat
    · exact .inr ⟨h, rfl, hl, by simp only [hh, if_pos hl, runFrame_eq]⟩
    · refine .inl ⟨by simp only [hh, if_neg hl], ?_⟩
      rintro h' ⟨⟩
      exact hl

/-- A remote byte moves the codec, raises at most the undefined-channel violation or dispatches one frame, and ends
with `UpdateAttn` (R141). -/
theorem execRemoteByte_acts (b : Byte) (s : State) : ∃ fc act,
    execRemoteByte b s = .next ((act ({ s with fc := fc } : State).clearOut).updateAttn s.flags
      (act ({ s with fc := fc } : State).clearOut).flags false) ∧
    (act = id ∨ (∃ ch, act = dropFrame ch) ∨ ∃ f, act = dispatch f) := by
  rcases execRemoteByte_cases b s with ⟨h, -⟩ | ⟨hd, -, -, h⟩
  · exact ⟨_, id, h, .inl rfl⟩
  · rcases frameAct_cases s.cfg.codes hd (codecNext s.fc b).acc with ⟨ch, -, e⟩ | ⟨-, e⟩ <;> rw [e] at h
    · exact ⟨_, _, h, .inr (.inr ⟨_, rfl⟩)⟩
    · exact ⟨_, _, h, .inr (.inl ⟨_, rfl⟩)⟩

/-- What a step can do: idle, or the meaning of the first waiting event. -/
theorem step_cases (s : State) :
    (s.input = [] ∧ step s = .next s.clearOut) ∨
    (∃ b es, s.input = .hostByte b :: es ∧ step s = execHostByte b { s with input := es }) ∨
    (∃ es, s.input = .hostFinish :: es ∧ step s = .next { s with input := es }.clearOut) ∨
    (∃ b es, s.input = .remoteByte b :: es ∧ step s = execRemoteByte b { s with input := es }) ∨
    (∃ es, s.input = .reset :: es ∧ step s = .next (resetAll { s with input := es })) := by
  unfold step
  cases s.input with
  | nil => exact .inl ⟨rfl, rfl⟩
  | cons e es =>
    cases e with
    | hostByte b => exact .inr (.inl ⟨b, es, rfl, rfl⟩)
    | hostFinish => exact .inr (.inr (.inl ⟨es, rfl, rfl⟩))
    | remoteByte b => exact .inr (.inr (.inr (.inl ⟨b, es, rfl, rfl⟩)))
    | reset => exact .inr (.inr (.inr (.inr ⟨es, rfl, rfl⟩)))

/-! ### Runs -/

/-- A run of no step. -/
@[simp] theorem runSteps_zero (s : State) : runSteps 0 s = some ([], s) := rfl

/-- A run whose first step is known. -/
theorem runSteps_succ {s t : State} (h : step s = .next t) (n : Nat) :
    runSteps (n + 1) s = (runSteps n t).map fun r => (t.out :: r.1, r.2) := by
  simp only [runSteps, h]

/-- Two runs after each other are one run. -/
theorem runSteps_add {s t : State} {n : Nat} {o : List Output} (h : runSteps n s = some (o, t)) (m : Nat) :
    runSteps (n + m) s = (runSteps m t).map fun r => (o ++ r.1, r.2) := by
  induction n generalizing s o with
  | zero =>
    simp only [runSteps_zero, Option.some.injEq, Prod.mk.injEq] at h
    obtain ⟨rfl, rfl⟩ := h
    simp only [Nat.zero_add, List.nil_append]
    cases runSteps m s <;> rfl
  | succ n ih =>
    rw [Nat.succ_add]
    cases hs : step s with
    | next u =>
      rw [runSteps_succ hs] at h ⊢
      cases hu : runSteps n u with
      | none => simp [hu] at h
      | some r =>
        simp only [hu, Option.map_some, Option.some.injEq, Prod.mk.injEq] at h
        obtain ⟨rfl, rfl⟩ := h
        rw [ih hu, Option.map_map]
        rfl
    | fault r => simp [runSteps, hs] at h
    | refused r => simp [runSteps, hs] at h

end Sys2Proof.Machine
end

