-- ==== Sys2Proof/Tests/Slice0.lean ====
section
/-! SUPPORT. Tests: ill-formed terms, words written out from the encoding tables, one step of each operation with the
results of 95_test_vectors.md (V.., S.., T..), and for each obligation with hypotheses a state that meets them. -/

namespace Sys2Proof.Tests

open Sys2Proof.Machine

/-! ## Fixtures -/

/-- The reset state with another request width and attention mode. -/
def fresh (wd : ReqWidth) (m : AttnMode) : State :=
  State.init { Cfg.scenario with reqWidth := wd, attnMode := m }

/-- The reset state with the latch set. -/
def linked : State := { State.reset with dc.connected := true }

/-- Connected to the access point and to the audio source, with `n` bytes buffered. -/
def streaming (n : Nat) : State :=
  { State.reset with
    dc.connected := true
    dc.audio := .connected
    dc.abuf := (List.range n).map fun k => BitVec.ofNat 8 (0x10 + k)
    attn := decide (16 ≤ n) }

/-- A queued message of eight bytes from 10.0.0.1 (S6). -/
def message8 : Frame where
  chan := .control
  len := 8
  addr := 0x0A000001#32
  port := 9000
  payload := [0xA5#8, 0xA5#8, 0xA5#8, 0xA5#8, 0x11#8, 0x22#8, 0x33#8, 0x44#8]

/-- A queued message of four bytes from address 1 (V50). -/
def message4 : Frame where
  chan := .control
  len := 4
  addr := 1
  port := 1
  payload := [0xA5#8, 0xA5#8, 0xA5#8, 0xA5#8]

/-- Connected, with the messages `q` queued. -/
def queued (q : List Frame) : State :=
  { State.reset with dc.connected := true, dc.msgq := q, attn := decide (q ≠ []) }

/-- In the data phase of register `r`, with `buf` and `n` bytes pending. -/
def inData (s : State) (r : Reg) (d : Dir) (buf : List Byte) (n : Nat) : State :=
  { s with te.stage := .awaitingData, te.reg := r, te.dir := d, te.buf := buf, te.remaining := n, ack := true }

/-- Stalled in a connect request (T2 step 2). -/
def stalledState : State :=
  { State.reset with
    te.stage := .stalled, te.reg := .audioSource, te.dir := .write, ack := true, dc.audio := .connecting }

/-- The next state, where there is one. -/
def after (i : Instr) (s : State) : Option State :=
  match exec i s with
  | .next t => some t
  | .fault _ => none
  | .refused _ => none

/-- The state after a step, where there is one. -/
def stepped (s : State) : Option State :=
  match step s with
  | .next t => some t
  | .fault _ => none
  | .refused _ => none

/-- The outputs of an operation. -/
def outputs (i : Instr) (s : State) : Option (Option Byte × List Byte × List Diag) :=
  (after i s).map fun t => (t.out.reply, t.out.tx, t.out.diag)

/-- The fault of an operation. -/
def faultOf (i : Instr) (s : State) : Option Fault :=
  match exec i s with
  | .next _ => none
  | .fault f => some f
  | .refused _ => none

/-- The reset state with events waiting. -/
def waiting (s : State) (es : List Event) : State := { s with input := es }

/-- S6's construction parameters. -/
def params : Params where
  hostEndpoint := true
  frameEndpoint := true
  remoteAddr := 0x0A000001
  remotePort := 9000
  magic := 0xA5A5A5A5#32
  msgMin := 4
  msgMax := 64
  defaultBlock := 16
  link := { baud := 115200, stopBits := 1, parity := 0 }
  reqWidth := .w2
  attnMode := .clearOnRead
  codes := Codes.standard 64

/-! ## Ill-formed terms are refused by WellFormed -/

theorem test_wf_address_too_wide : (Instr.reqUndefined .w1 .read 64).wf tableCodes = false := by decide
theorem test_wf_address_defined : (Instr.reqUndefined .w2 .write 4).wf tableCodes = false := by decide
theorem test_wf_channel_defined : (Instr.frameUndefined 3 0 0 []).wf tableCodes = false := by decide
theorem test_wf_send_length : (Instr.send { message8 with len := 7 }).wf tableCodes = false := by decide
theorem test_wf_dispatch_length : (Instr.dispatch { message8 with len := 9 }).wf tableCodes = false := by decide
theorem test_wf_dec_u16_bounds : (Instr.decU16 [1#8, 2#8] 1).wf tableCodes = false := by decide
theorem test_wf_dec_u32_bounds : (Instr.decU32 [1#8, 2#8, 3#8] 0).wf tableCodes = false := by decide
theorem test_wf_construct_codes :
    (Instr.construct { params with codes.chAcm := 0 }).wf tableCodes = false := by decide
theorem test_wf_construct_writeLen :
    (Instr.construct { params with msgMax := 8 }).wf tableCodes = false := by decide

/-- A payload of 2^32 bytes does not fit the length field: refused on each of the five channels. -/
theorem test_wf_payload_length (p : List Byte) (h : p.length = 2 ^ 32) :
    (Instr.frameConfig 0 0 p).wf tableCodes = false ∧ (Instr.frameControl 0 0 p).wf tableCodes = false ∧
    (Instr.frameAudio 0 0 p).wf tableCodes = false ∧ (Instr.frameAcm 0 0 p).wf tableCodes = false ∧
    (Instr.frameUndefined 9 0 0 p).wf tableCodes = false := by
  simp [Instr.wf, h]

/-! ## Words written out from 30_encoding.md (R90, R93, R97, R98, R100) -/

theorem test_dec_rd_status : decodeRequest tableCodes .w1 [0x00#8] = .instr (.rdStatus .w1) [] := by decide
theorem test_dec_rd_status_80 : decodeRequest tableCodes .w1 [0x80#8] = .instr (.rdStatus .w1) [] := by decide
theorem test_dec_wr_status : decodeRequest tableCodes .w1 [0x01#8] = .instr (.wrStatus .w1) [] := by decide
theorem test_dec_rd_message :
    decodeRequest tableCodes .w2 [0x02#8, 0x00#8] = .instr (.rdMessage .w2) [] := by decide
theorem test_dec_wr_message :
    decodeRequest tableCodes .w4 [0x03#8, 0x00#8, 0x00#8, 0x00#8] = .instr (.wrMessage .w4) [] := by decide
theorem test_dec_rd_audio_source : decodeRequest tableCodes .w1 [0x04#8] = .instr (.rdAudioSource .w1) [] := by decide
theorem test_dec_wr_audio_source :
    decodeRequest tableCodes .w2 [0x05#8, 0x00#8, 0x99#8] = .instr (.wrAudioSource .w2) [0x99#8] := by decide
theorem test_dec_rd_block_size :
    decodeRequest tableCodes .w4 [0x06#8, 0x00#8, 0x00#8, 0x00#8] = .instr (.rdAudioBlockSize .w4) [] := by decide
theorem test_dec_wr_block_size : decodeRequest tableCodes .w1 [0x07#8] = .instr (.wrAudioBlockSize .w1) [] := by decide
theorem test_dec_rd_audio_data :
    decodeRequest tableCodes .w2 [0x08#8, 0x00#8] = .instr (.rdAudioData .w2) [] := by decide
theorem test_dec_wr_audio_data :
    decodeRequest tableCodes .w4 [0x09#8, 0x00#8, 0x00#8, 0x00#8] = .instr (.wrAudioData .w4) [] := by decide
theorem test_dec_undefined_63 :
    decodeRequest tableCodes .w1 [0xFF#8] = .instr (.reqUndefined .w1 .write 63) [] := by decide
theorem test_dec_undefined_top :
    decodeRequest tableCodes .w4 [0x01#8, 0x00#8, 0x00#8, 0x80#8] = .instr (.reqUndefined .w4 .write 0x40000000) [] := by
  decide
theorem test_dec_request_incomplete :
    decodeRequest tableCodes .w4 [0x00#8, 0x00#8, 0x00#8] = .rejected .requestIncomplete := by decide

/-- The eleven header bytes of a frame of `n` bytes from 10.0.0.1, port 9000, on channel `ch`. -/
def header (n ch : Byte) : List Byte :=
  [n, 0x00#8, 0x00#8, 0x00#8, 0x01#8, 0x00#8, 0x00#8, 0x0A#8, 0x28#8, 0x23#8, ch]

theorem test_dec_frame_config :
    decodeFrame tableCodes (header 2 0 ++ [0x6F#8, 0x6B#8]) =
      .instr (.frameConfig 0x0A000001 9000 [0x6F#8, 0x6B#8]) [] := by decide
theorem test_dec_frame_control :
    decodeFrame tableCodes (header 4 1 ++ [0xA5#8, 0xA5#8, 0xA5#8, 0xA5#8, 0x77#8]) =
      .instr (.frameControl 0x0A000001 9000 [0xA5#8, 0xA5#8, 0xA5#8, 0xA5#8]) [0x77#8] := by decide
theorem test_dec_frame_audio :
    decodeFrame tableCodes (header 0 2) = .instr (.frameAudio 0x0A000001 9000 []) [] := by decide
theorem test_dec_frame_acm :
    decodeFrame tableCodes (header 1 3 ++ [0x00#8]) = .instr (.frameAcm 0x0A000001 9000 [0x00#8]) [] := by decide
theorem test_dec_frame_undefined :
    decodeFrame tableCodes (header 1 7 ++ [0xFF#8]) = .instr (.frameUndefined 7 0x0A000001 9000 [0xFF#8]) [] := by
  decide
theorem test_dec_header_incomplete :
    decodeFrame tableCodes ((header 1 3).take 10) = .rejected .headerIncomplete := by decide
theorem test_dec_payload_incomplete : decodeFrame tableCodes (header 1 3) = .rejected .payloadIncomplete := by decide
theorem test_table_word : decodeTableWord 16 5 = some (.wrAudioSource .w2) := by decide
theorem test_fetch_word :
    (stepped (State.reset.withFetchWord 16 5)).map (fun t => (t.te.reg, t.te.remaining)) = some (.audioSource, 6) := by
  decide

/-! ## One step of each operation -/

-- V40, V20
theorem test_rd_status :
    (after (.rdStatus .w1) { queued [message8] with dc.err := true }).map (fun t => (t.te.buf, t.dc.err, t.attn)) =
      some ([0x03#8, 0#8, 0#8, 0#8], false, true) := by decide
theorem test_rd_status_on_read_mode :
    (after (.rdStatus .w1) { fresh .w1 .clearOnRead with dc.msgq := [message8], attn := true }).map
      (fun t => (t.te.buf, t.attn)) = some ([0x02#8, 0#8, 0#8, 0#8], false) := by decide
-- V22
theorem test_wr_status : outputs (.wrStatus .w1) State.reset = some (some 0, [], [.writeToReadOnly .status]) := by decide
-- T1 step 5, V50
theorem test_rd_message :
    (after (.rdMessage .w1) (queued [message8])).map (fun t => (t.te.buf, t.te.remaining, t.dc.msgq, t.attn)) =
      some ([0xA5#8, 0xA5#8, 0xA5#8, 0xA5#8, 0x01#8, 0x00#8, 0x00#8, 0x0A#8], 8, [], false) := by decide
theorem test_rd_message_short :
    (after (.rdMessage .w1) (queued [message4])).map (fun t => t.te.buf) =
      some [0xA5#8, 0xA5#8, 0xA5#8, 0xA5#8] := by decide
-- V24
theorem test_wr_message :
    (after (.wrMessage .w1) State.reset).map (fun t => (t.te.remaining, t.te.reg, t.te.dir, t.ack)) =
      some (64, .message, .write, true) := by decide
-- V25
theorem test_rd_audio_source :
    outputs (.rdAudioSource .w1) State.reset = some (some 0, [], [.readOfWriteOnly .audioSource]) := by decide
-- V26
theorem test_wr_audio_source :
    (after (.wrAudioSource .w1) State.reset).map (fun t => (t.te.remaining, t.te.reg, t.ack)) =
      some (6, .audioSource, true) := by decide
-- V27
theorem test_rd_block_size :
    outputs (.rdAudioBlockSize .w1) State.reset = some (some 0, [], [.readOfWriteOnly .audioBlockSize]) := by decide
-- V28
theorem test_wr_block_size :
    (after (.wrAudioBlockSize .w1) State.reset).map (fun t => (t.te.remaining, t.te.reg, t.ack)) =
      some (4, .audioBlockSize, true) := by decide
-- T2 step 8, V29
theorem test_rd_audio_data :
    (after (.rdAudioData .w1) (streaming 20)).map (fun t => (t.te.buf.length, t.dc.abuf, t.attn)) =
      some (16, [0x20#8, 0x21#8, 0x22#8, 0x23#8], false) := by decide
theorem test_rd_audio_data_short :
    outputs (.rdAudioData .w1) (streaming 15) = some (some 0, [], [.nothingAvailable .audioData]) := by decide
-- V30
theorem test_wr_audio_data :
    outputs (.wrAudioData .w1) State.reset = some (some 0, [], [.writeToReadOnly .audioData]) := by decide
-- V31
theorem test_req_undefined :
    outputs (.reqUndefined .w1 .read 5) State.reset = some (some 0, [], [.undefinedAddress 5]) := by decide
-- V13, V52
theorem test_frame_config :
    (after (.frameConfig 0x0A000001 9000 [0x6F#8, 0x6B#8]) State.reset).map (fun t => (t.dc.connected, t.out.tx)) =
      some (true, []) := by decide
theorem test_frame_config_repeated :
    outputs (.frameConfig 1 1 [0x6F#8, 0x6B#8]) linked = some (none, [], [.repeatedConfig]) := by decide
-- T1 step 2, S2 (c)
theorem test_frame_control :
    (after (.frameControl 0x0A000001 9000 message8.payload) linked).map (fun t => (t.dc.msgq, t.flags, t.attn)) =
      some ([message8], 2, true) := by decide
theorem test_frame_control_magic :
    outputs (.frameControl 1 1 [0xA5#8, 0xA5#8, 0xA5#8, 0xA4#8, 0#8, 0#8, 0#8, 0#8]) linked =
      some (none, [], [.badMagic]) := by decide
-- T2 step 6, V54
theorem test_frame_audio :
    (after (.frameAudio 1 1 ((streaming 10).dc.abuf)) (streaming 10)).map (fun t => (t.dc.abuf.length, t.flags, t.attn)) =
      some (20, 4, true) := by decide
theorem test_frame_audio_not_connected :
    outputs (.frameAudio 1 1 [1#8, 2#8, 3#8]) { streaming 0 with dc.connected := false } =
      some (none, [], [.audioWhileNotConnected]) := by decide
-- T2 step 4, V57
theorem test_frame_acm_success :
    (after (.frameAcm 1 1 [0#8]) stalledState).map (fun t => (t.dc.audio, t.te.stage, t.ack)) =
      some (.connected, .awaitingRequest, false) := by decide
theorem test_frame_acm_failure :
    (after (.frameAcm 1 1 [1#8]) (streaming 20)).map (fun t => (t.dc.audio, t.dc.err, t.dc.abuf.length, t.flags)) =
      some (.disconnected, true, 20, 5) := by decide
-- V15
theorem test_frame_undefined :
    outputs (.frameUndefined 7 0 0 [0xFF#8]) State.reset = some (none, [], [.undefinedChannel 7]) := by decide
-- V21, V49
theorem test_host_byte_request :
    (after (.hostByte 0x80#8) State.reset).map (fun t => (t.te.stage, t.te.remaining, t.te.buf, t.ack)) =
      some (.awaitingData, 4, [0#8, 0#8, 0#8, 0#8], true) := by decide
theorem test_host_byte_connects :
    (after (.hostByte 0#8) (inData State.reset .audioSource .write [0#8, 0#8, 0#8, 0#8, 1#8] 1)).map
      (fun t => (t.dc.audio, t.te.stage, t.out.tx)) =
      some (.connecting, .stalled, header 6 3 ++ [0#8, 0#8, 0#8, 0#8, 1#8, 0#8]) := by decide
-- V38
theorem test_host_finish : after .hostFinish stalledState = some stalledState := by decide
-- V12, V14
theorem test_remote_byte_header :
    (after (.remoteByte 0#8) { State.reset with fc.acc := (header 2 0).take 10 }).map (fun t => t.fc) =
      some { acc := [], hdr := some { len := 2, addr := 0x0A000001, port := 9000, chan := 0 } } := by decide
theorem test_remote_byte_empty_frame :
    (after (.remoteByte 0#8) { State.reset with fc.acc := (header 0 0).take 10 }).map (fun t => (t.fc, t.out.diag)) =
      some ({ acc := [], hdr := none }, [.emptyConfig]) := by decide
-- S8, T5
theorem test_reset :
    after .reset { stalledState with dc.abuf := [1#8], dc.msgq := [message8], attn := true } = some State.reset := by
  decide
-- V17
theorem test_send :
    outputs (.send ⟨.acm, 6, 0x0A000001, 9000, [0x05#8, 0x01#8, 0xA8#8, 0xC0#8, 0x8C#8, 0x13#8]⟩) State.reset =
      some (none, header 6 3 ++ [0x05#8, 0x01#8, 0xA8#8, 0xC0#8, 0x8C#8, 0x13#8], []) := by decide
theorem test_unblock :
    (after .unblock stalledState).map (fun t => (t.te.stage, t.ack)) = some (.awaitingRequest, false) := by decide
theorem test_unblock_not_stalled :
    outputs .unblock State.reset = some (none, [], [.unblockWhileNotStalled]) := by decide
-- V58
theorem test_dispatch :
    outputs (.dispatch { chan := .acm, len := 1, addr := 1, port := 1, payload := [5#8] }) State.reset =
      some (none, [], [.unexpectedAcm .disconnected 5]) := by decide
theorem test_complete :
    (after .complete (inData State.reset .status .read [1#8] 1)).map (fun t => (t.te.stage, t.te.buf, t.ack)) =
      some (.awaitingRequest, [], false) := by decide
-- R244 (a), R243
theorem test_update_attn_no_edge :
    (after (.updateAttn 2 2 false) (fresh .w1 .clearOnRead)).map (fun t => t.attn) = some false := by decide
theorem test_update_attn_level :
    (after (.updateAttn 2 2 false) (fresh .w1 .clearOnEmpty)).map (fun t => t.attn) = some true := by decide
-- V1, V3, V8, V7
theorem test_enc_u16 : (after (.encU16 0x2328) State.reset).map (fun t => t.out.ret) = some (.bytes [0x28#8, 0x23#8]) := by
  decide
theorem test_enc_u32 :
    (after (.encU32 0x0A000001) State.reset).map (fun t => t.out.ret) =
      some (.bytes [0x01#8, 0x00#8, 0x00#8, 0x0A#8]) := by decide
theorem test_dec_u16 :
    (after (.decU16 [0x05#8, 0x01#8, 0xA8#8, 0xC0#8, 0x8C#8, 0x13#8] 4) State.reset).map (fun t => t.out.ret) =
      some (.u16 5004) := by decide
theorem test_dec_u32 :
    (after (.decU32 [0xA5#8, 0xA5#8, 0xA5#8, 0xA5#8, 0x01#8, 0x00#8, 0x00#8, 0x0A#8] 4) State.reset).map
      (fun t => t.out.ret) = some (.u32 0x0A000001) := by decide
-- R291
theorem test_construct :
    (after (.construct params) State.reset).map (fun t => (t.cfg.reqWidth, t.cfg.remotePort, t.dc.block)) =
      some (.w2, 9000, 16) := by decide
theorem test_construct_port :
    faultOf (.construct { params with remotePort := 65536 }) State.reset = some (.constructionFailed .badPort) := by decide

/-! ## Hypotheses that can be met

For each obligation with hypotheses, a state and operands that meet them, clause by clause, at the ends of the ranges. -/

/-- The hypotheses most of the obligations share. -/
abbrev Ready (s : State) : Prop := s.cfg.codes.Wf s.cfg.reqWidth ∧ AttnLevel s

/-- The hypotheses of IllegalDirectionRejected and WriteRequestsAccepted, of UndefinedAddressRejected (first clause)
and of UndefinedChannelDropped. -/
theorem ready_reset : Ready State.reset := by decide
theorem ready_fresh_w2 : Ready (fresh .w2 .clearOnRead) := by decide
theorem ready_fresh_w4 : Ready (fresh .w4 .clearOnEmpty) := by decide
theorem ready_stalled : Ready stalledState := by decide
theorem ready_streaming : Ready (streaming 15) ∧ Ready (streaming 16) := by decide
theorem ready_queued : Ready (queued [message8]) ∧ Ready (queued [message4]) ∧ Ready linked := by decide

/-- DecodeEncodeAgree: a request at the highest address of each width, and frames with and without payload. -/
theorem witness_decode_encode :
    tableCodes.Wf .w1 ∧ (Instr.reqUndefined .w1 .read 63).wf tableCodes = true ∧
    tableCodes.Wf .w2 ∧ (Instr.reqUndefined .w2 .write 32767).wf tableCodes = true ∧
    tableCodes.Wf .w4 ∧ (Instr.reqUndefined .w4 .write 0x7FFFFFFF).wf tableCodes = true ∧
    (Instr.reqUndefined .w4 .write 0x7FFFFFFF).link = some (.host .w4) ∧
    (Instr.frameUndefined 255 0xFFFFFFFF 65535 []).wf tableCodes = true ∧
    (Instr.frameAcm 0 0 [0#8]).wf tableCodes = true ∧ (Instr.frameAcm 0 0 [0#8]).link = some .frame := by decide

/-- FrameDecodingLosesNoByte. -/
theorem witness_frame_decoding :
    tableCodes.Wf .w1 ∧ decodeFrame tableCodes (header 0 9) = .instr (.frameUndefined 9 0x0A000001 9000 []) [] := by
  decide

/-- RequestDecodingLosesNoBit: at width 1 with bit 7 set, and at another width. -/
theorem witness_request_decoding :
    tableCodes.Wf .w1 ∧ decodeRequest tableCodes .w1 [0x85#8] = .instr (.wrAudioSource .w1) [] ∧
    tableCodes.Wf .w2 ∧ decodeRequest tableCodes .w2 [0x05#8, 0x80#8] = .instr (.reqUndefined .w2 .write 0x4002) [] := by
  decide

/-- RequestBitSevenIgnored. -/
theorem witness_bit_seven :
    State.reset.cfg.reqWidth = .w1 ∧ State.reset.te.stage = .awaitingRequest ∧ State.reset.te.req = [] ∧
    [1#8, 0x80#8].length = ReqWidth.w2.bytes ∧
    requestWord .w2 [1#8, 0x80#8] = requestWord .w2 [1#8, 0x80#8] := by decide

/-- DecodersFaultOutOfBounds: one byte short. -/
theorem witness_out_of_bounds : [1#8, 2#8].length < 1 + 2 ∧ [1#8, 2#8, 3#8].length < 0 + 4 := by decide

/-- CodecRoundTrip. -/
theorem witness_codec : [1#8, 2#8].length = 2 ∧ [1#8, 2#8, 3#8, 0xFF#8].length = 4 := by decide

/-- StepTakesTheNextEvent: each kind of input. -/
theorem witness_events :
    State.reset.input = [] ∧ (waiting State.reset [.hostByte 0]).input = .hostByte 0 :: [] ∧
    (waiting State.reset [.hostFinish]).input = .hostFinish :: [] ∧
    (waiting State.reset [.remoteByte 0]).input = .remoteByte 0 :: [] ∧
    (waiting State.reset [.reset, .reset]).input = .reset :: [.reset] := by decide

/-- StepRunsDecodedRequest: the last byte of a two-byte word. -/
theorem witness_step_request :
    (waiting { fresh .w2 .clearOnRead with te.req := [0x02#8] } [.hostByte 0]).input = .hostByte 0 :: [] ∧
    (fresh .w2 .clearOnRead).te.stage = .awaitingRequest ∧
    decodeRequest tableCodes .w2 ([0x02#8] ++ [0#8]) = .instr (.rdMessage .w2) [] := by decide

/-- StepRunsDecodedFrame: the eleventh byte of an empty frame, and the last payload byte of another. -/
theorem witness_step_frame :
    (waiting { State.reset with fc.acc := (header 0 0).take 10 } [.remoteByte 0]).input = .remoteByte 0 :: [] ∧
    ((header 0 0).take 10).length ≤ 10 ∧
    decodeFrame tableCodes ((header 0 0).take 10 ++ [0#8]) = .instr (.frameConfig 0x0A000001 9000 []) [] ∧
    ([] : List Byte).length < (decodeHeader (header 1 3)).len.toNat ∧
    decodeFrame tableCodes (encodeHeader (decodeHeader (header 1 3)) ++ [] ++ [7#8]) =
      .instr (.frameAcm 0x0A000001 9000 [7#8]) [] := by decide

theorem witness_step_frame_ok :
    ({ acc := (header 0 0).take 10, hdr := none } : FrameCodec).Ok ∧
    ({ acc := [], hdr := some (decodeHeader (header 1 3)) } : FrameCodec).Ok :=
  ⟨(by decide : ((header 0 0).take 10).length ≤ 10),
   (by decide : ([] : List Byte).length < (decodeHeader (header 1 3)).len.toNat)⟩

/-- RdStatusSnapshotsAndClearsError. -/
theorem witness_rd_status :
    State.reset.cfg.codes.Wf State.reset.cfg.reqWidth ∧ State.reset.cfg.codes.statusSize = 4 := by decide

/-- StatusWordBits. -/
theorem witness_status_bits : Ready linked ∧ 31 < 32 ∧ linked.cfg.codes = Codes.standard 64 := by decide

/-- RdMessagePopsTheFront: a message with room for the address field, one of exactly eight bytes, and one without. -/
theorem witness_rd_message :
    Ready (queued [message8, message4]) ∧ (queued [message8, message4]).dc.msgq = message8 :: [message4] ∧
    tableCodes.msgAddrOffset + 4 ≤ message8.payload.length ∧
    [0xA5#8, 0xA5#8, 0xA5#8, 0xA5#8, 1#8, 0#8, 0#8, 0x0A#8] =
      message8.payload.take tableCodes.msgAddrOffset ++ encU32 message8.addr ++
        message8.payload.drop (tableCodes.msgAddrOffset + 4) ∧
    (queued [message4]).dc.msgq = message4 :: [] ∧ message4.payload.length < tableCodes.msgAddrOffset + 4 := by decide

/-- RdAudioDataDrainsOneBlock: exactly one block buffered, and more. -/
theorem witness_rd_audio_data :
    Ready (streaming 16) ∧ (streaming 16).dc.abuf = (streaming 16).dc.abuf ++ [] ∧
    (streaming 16).dc.abuf.length = (streaming 16).dc.block.toNat ∧
    (streaming 20).dc.abuf = (streaming 16).dc.abuf ++ [0x20#8, 0x21#8, 0x22#8, 0x23#8] := by decide

/-- UndefinedAddressRejected, second clause: the lowest and the highest undefined address. -/
theorem witness_undefined_address :
    State.reset.te.stage = .awaitingRequest ∧ State.reset.te.req.length + 1 = State.reset.cfg.reqWidth.bytes ∧
    requestAddr (requestWord .w1 ([] ++ [0x0A#8])) ∉ tableCodes.addresses ∧
    requestAddr (requestWord .w1 ([] ++ [0xFF#8])) ∉ tableCodes.addresses := by decide

/-- NothingAvailableAborts: an empty queue; one byte less than a block. -/
theorem witness_nothing_available :
    Ready (streaming 15) ∧ (streaming 15).dc.msgq = [] ∧
    (streaming 15).dc.abuf.length < (streaming 15).dc.block.toNat := by decide

/-- MessageWriteSendsControlFrame: the last of 64 bytes, before and after the Config frame. -/
theorem witness_message_write :
    Ready (inData State.reset .message .write (List.replicate 63 0) 1) ∧ State.reset.dc.connected = false ∧
    Ready (inData linked .message .write (List.replicate 63 0) 1) ∧ linked.dc.connected = true ∧
    tableCodes.msgMagicOffset + 4 ≤ (List.replicate 63 0#8 ++ [0#8]).length ∧
    (List.replicate 63 0#8 ++ [0#8]).length < 2 ^ 32 := by decide

/-- MessageWriteSendsControlFrame, last clause: the same state has the invariant. -/
theorem witness_message_write_inv :
    DeviceInv (inData linked .message .write (List.replicate 63 0) 1) where
  config := by decide
  codec := (by decide : ([] : List Byte).length ≤ 10)
  request := by decide
  requestIdle := by decide
  pending := by decide
  bufferIdle := by decide
  staged := by decide
  received := by decide
  stalledWrite := by decide
  ackLevel := by decide
  stalledConnecting := by decide
  blockPositive := by decide
  blockAligned := by decide
  queue := fun _ hf => nomatch (show _ ∈ ([] : List Frame) from hf)
  attnLevel := by decide

/-- AudioSourceWriteConnectsOrDisconnects: the three clauses; an address of 0 with a port of 1 is no disconnect. -/
theorem witness_audio_source_write :
    Ready (inData State.reset .audioSource .write (List.replicate 5 0) 1) ∧ 0 < State.reset.dc.block.toNat ∧
    State.reset.dc.audio = .disconnected ∧
    Ready (inData (streaming 20) .audioSource .write (List.replicate 5 0) 1) ∧ (streaming 20).dc.audio ≠ .disconnected ∧
    (decU32 (List.replicate 5 0#8 ++ [0#8]) 0 = 0 ∧ decU16 (List.replicate 5 0#8 ++ [0#8]) 4 = 0) ∧
    ¬(decU32 ([0#8, 0#8, 0#8, 0#8, 1#8] ++ [0#8]) 0 = 0 ∧ decU16 ([0#8, 0#8, 0#8, 0#8, 1#8] ++ [0#8]) 4 = 0) := by
  decide

/-- BlockSizeWriteRoundsUp: rejected at 0 and 0xFFFFFFFD, taken at 1 and 0xFFFFFFFC. -/
theorem witness_block_size_write :
    Ready (inData State.reset .audioBlockSize .write [0xFD#8, 0xFF#8, 0xFF#8] 1) ∧
    decU32 ([0#8, 0#8, 0#8] ++ [0#8]) 0 = 0 ∧ 0xFFFFFFFC < (decU32 ([0xFD#8, 0xFF#8, 0xFF#8] ++ [0xFF#8]) 0).toNat ∧
    decU32 ([1#8, 0#8, 0#8] ++ [0#8]) 0 ≠ 0 ∧ (4#32).toNat = ((decU32 ([1#8, 0#8, 0#8] ++ [0#8]) 0).toNat + 3) / 4 * 4 ∧
    (decU32 ([0xFC#8, 0xFF#8, 0xFF#8] ++ [0xFF#8]) 0).toNat ≤ 0xFFFFFFFC ∧
    (0xFFFFFFFC#32).toNat = ((decU32 ([0xFC#8, 0xFF#8, 0xFF#8] ++ [0xFF#8]) 0).toNat + 3) / 4 * 4 := by decide

/-- DataBytesMoveTheBuffer: two bytes left and one left in a read, two left in a write. -/
theorem witness_data_bytes :
    Ready (inData State.reset .status .read [1#8, 0#8] 2) ∧
    (inData State.reset .status .read [1#8, 0#8] 2).te.remaining = 0 + 2 ∧
    Ready (inData State.reset .status .read [1#8] 1) ∧ (inData State.reset .status .read [1#8] 1).te.buf = 1#8 :: [] ∧
    Ready (inData State.reset .audioBlockSize .write [1#8, 0#8] 2) ∧
    (inData State.reset .audioBlockSize .write [1#8, 0#8] 2).te.remaining = 0 + 2 := by decide

/-- StalledByteRejected, StallOutlastsHostTraffic. -/
theorem witness_stalled :
    Ready stalledState ∧ stalledState.te.stage = .stalled ∧
    (∀ e ∈ [Event.hostByte 0, Event.hostFinish], e.isHost = true) := by decide

/-- PartialRequestAccumulates: the first of two bytes and the third of four. -/
theorem witness_partial_request :
    Ready (fresh .w2 .clearOnRead) ∧ (fresh .w2 .clearOnRead).te.req.length + 1 < ReqWidth.w2.bytes ∧
    ([0#8, 0#8] : List Byte).length + 1 < ReqWidth.w4.bytes ∧
    Ready { fresh .w4 .clearOnEmpty with te.req := [0#8, 0#8] } := by decide

/-- ReadDataPhaseReturnsStagedBytes. -/
theorem witness_read_phase :
    Ready (inData State.reset .status .read [1#8, 0#8, 0#8, 0#8] 4) ∧
    (inData State.reset .status .read [1#8, 0#8, 0#8, 0#8] 4).te.buf.length = 4 ∧ 1 ≤ 4 ∧
    [9#8, 9#8, 9#8, 9#8].length = 4 := by decide

/-- WriteDataPhaseGathersBytes: five bytes before the last, and none. -/
theorem witness_write_phase :
    Ready (inData State.reset .audioSource .write [] 6) ∧
    (inData State.reset .audioSource .write [] 6).te.remaining = [1#8, 2#8, 3#8, 4#8, 5#8].length + 1 ∧
    (inData State.reset .audioSource .write [1#8, 2#8, 3#8, 4#8, 5#8] 1).te.remaining = ([] : List Byte).length + 1 := by
  decide

/-- RequestBytesRunTheRequest. -/
theorem witness_request_bytes :
    Ready (fresh .w4 .clearOnEmpty) ∧ (fresh .w4 .clearOnEmpty).te.stage = .awaitingRequest ∧
    (fresh .w4 .clearOnEmpty).te.req = [] ∧ (Instr.wrMessage .w4).wf tableCodes = true ∧
    (Instr.wrMessage .w4).link = some (.host .w4) := by decide

/-- RemoteByteCollects: the tenth header byte, the eleventh of a frame with payload, a payload byte before the last. -/
theorem witness_collect :
    Ready State.reset ∧ ((header 2 0).take 9).length < 10 ∧ ((header 2 0).take 10).length = 10 ∧
    (header 2 0).take 10 ++ [0#8] = encodeHeader (decodeHeader (header 2 0)) ∧ (decodeHeader (header 2 0)).len ≠ 0 ∧
    ([] : List Byte).length + 1 < (decodeHeader (header 2 0)).len.toNat := by decide

/-- FrameStreamRoundTrip: S1's two frames. -/
theorem witness_stream :
    Ready State.reset ∧ State.reset.fc.atBoundary ∧
    ∀ i ∈ [Instr.frameConfig 0x0A000001 9000 [0x6F#8, 0x6B#8], Instr.frameControl 0x0A000001 9000 message8.payload],
      i.wf State.reset.cfg.codes = true ∧ i.link = some .frame := by decide

/-- ConfigFrameSetsTheLatchOnce. -/
theorem witness_config :
    Ready State.reset ∧ [0#8].length < 2 ^ 32 ∧ [0#8] ≠ [] ∧ State.reset.dc.connected = false ∧
    Ready linked ∧ linked.dc.connected = true := by decide

/-- ControlFrameQueued: the shortest accepted length, one byte too few, one too many, and a wrong magic. -/
theorem witness_control :
    Ready linked ∧ linked.dc.connected = true ∧ linked.cfg.msgMin ≤ message4.payload.length ∧
    message4.payload.length ≤ linked.cfg.msgMax ∧ decU32 message4.payload 0 = linked.cfg.magic ∧
    Ready State.reset ∧ State.reset.dc.connected = false ∧
    [0xA5#8, 0xA5#8, 0xA5#8].length < linked.cfg.msgMin ∧ linked.cfg.msgMax < (List.replicate 65 0xA5#8).length ∧
    decU32 [0xA5#8, 0xA5#8, 0xA5#8, 0xA4#8] 0 ≠ linked.cfg.magic := by decide

/-- AudioFrameBuffered: both conditions, and each one missing. -/
theorem witness_audio :
    Ready (streaming 6) ∧ (streaming 6).dc.connected = true ∧ (streaming 6).dc.audio = .connected ∧
    linked.dc.audio ≠ .connected ∧ Ready { streaming 0 with dc.connected := false } := by decide

/-- AcmFrameDrivesTheAudioState: the three audio states; lengths 0 and 2. -/
theorem witness_acm :
    Ready stalledState ∧ stalledState.dc.audio = .connecting ∧ stalledState.te.stage = .stalled ∧ (1#8 : Byte) ≠ 0 ∧
    Ready (streaming 0) ∧ (streaming 0).dc.audio = .connected ∧ Ready linked ∧ linked.dc.audio = .disconnected ∧
    ([] : List Byte).length ≠ 1 ∧ [0#8, 0#8].length ≠ 1 := by decide

/-- ConstructValidates: valid parameters, and each test failing. -/
theorem witness_construct :
    (params.hostEndpoint = true ∧ params.frameEndpoint = true ∧ params.remotePort ≤ 65535 ∧
      params.remoteAddr < 2 ^ 32 ∧ 4 ≤ params.msgMin ∧ params.msgMin % 4 = 0 ∧ 4 ≤ params.msgMax ∧
      params.msgMax % 4 = 0 ∧ params.msgMin ≤ params.msgMax ∧ 0 < params.defaultBlock.toNat ∧
      params.defaultBlock.toNat % 4 = 0) ∧
    65535 < { params with remotePort := 65536 }.remotePort ∧ { params with msgMin := 3 }.msgMin < 4 ∧
    { params with msgMax := 66 }.msgMax % 4 ≠ 0 ∧ { params with msgMin := 68 }.msgMax < 68 ∧
    { params with defaultBlock := 0 }.defaultBlock = 0 ∧ { params with defaultBlock := 2 }.defaultBlock.toNat % 4 ≠ 0 ∧
    params.msgMin ≤ params.codes.msgWriteLen ∧ params.codes.msgWriteLen ≤ params.msgMax ∧
    { params with msgMax := 60 }.msgMax < params.codes.msgWriteLen ∧ (Codes.standard 3).msgWriteLen < params.msgMin := by
  decide

/-- The device of R196's example, `MSG_MAX = 8`: a write length above it is none of the device's. -/
theorem test_construct_writeLen :
    (after (.construct { params with msgMax := 8 }) State.reset).map (fun t => t.cfg.codes.msgWriteLen) = some 8 ∧
    (after (.construct { params with codes := Codes.standard 8 }) State.reset).map
      (fun t => t.cfg.codes.msgWriteLen) = some 8 := by decide

/-- SendEmitsHeaderThenPayload. -/
theorem witness_send :
    message8.Wf ∧ message8.chan = .control ∧ (1 : Byte) = State.reset.cfg.codes.chControl := by decide

/-- UnblockCompletesAStall. -/
theorem witness_unblock : stalledState.te.stage = .stalled ∧ State.reset.te.stage ≠ .stalled := by decide

/-- DispatchByChannel: for each test of each handler a frame that fails it; ACM codes 0 and 255 in each state. -/
theorem witness_dispatch_rejected :
    ({ chan := .config, len := 0, addr := 1, port := 1, payload := [] } : Frame).Wf ∧
    ({ chan := .control, len := 3, addr := 1, port := 1, payload := [0xA5#8, 0xA5#8, 0xA5#8] } : Frame).Wf ∧
    [0xA5#8, 0xA5#8, 0xA5#8].length < linked.cfg.msgMin ∧ linked.cfg.msgMax < (List.replicate 65 0xA5#8).length ∧
    decU32 [0xA5#8, 0xA5#8, 0xA5#8, 0xA4#8] 0 ≠ linked.cfg.magic ∧ State.reset.dc.connected = false ∧
    linked.dc.audio ≠ .connected ∧ linked.dc.audio = .disconnected ∧ [0#8, 0#8].length ≠ 1 ∧
    ({ chan := .acm, len := 1, addr := 1, port := 1, payload := [0xFF#8] } : Frame).Wf ∧
    ({ State.reset with dc.audio := .connecting } : State).te.stage ≠ .stalled := by decide

/-- DispatchByChannel, DispatchIgnoresTheSource: a frame that each handler accepts. -/
theorem witness_dispatch :
    ({ chan := .config, len := 1, addr := 1, port := 1, payload := [0#8] } : Frame).Wf ∧
    State.reset.dc.connected = false ∧ message4.Wf ∧ linked.dc.connected = true ∧
    decU32 message4.payload 0 = linked.cfg.magic ∧ (streaming 0).dc.audio = .connected ∧
    stalledState.dc.audio = .connecting ∧ (after (.dispatch message4) linked).isSome = true ∧
    (after (.dispatch { message4 with addr := 9, port := 9 }) linked).isSome = true := by decide

/-- UpdateAttnByMode: both modes, the edge, and no edge. -/
theorem witness_update_attn :
    (fresh .w1 .clearOnEmpty).cfg.attnMode = .clearOnEmpty ∧ (fresh .w1 .clearOnRead).cfg.attnMode = .clearOnRead ∧
    (0 : U32) = 0 ∧ (1 : U32) ≠ 0 := by decide

/-- ConstructedDeviceHasInv. -/
theorem witness_constructed : params.codes.Wf params.reqWidth ∧ params.codes.msgMagicOffset + 4 ≤ params.msgMax ∧
    (after (.construct params) State.reset).isSome = true := by
  decide

/-- StepKeepsInv, CoordinationErrorsUnreachable: a stalled state with the invariant, and the frame byte that ends the
stall waiting. -/
theorem witness_inv :
    DeviceInv (waiting { stalledState with fc := { acc := [], hdr := some (decodeHeader (header 1 3)) } }
      [.remoteByte 0]) where
  config := by decide
  codec := (by decide : ([] : List Byte).length < (decodeHeader (header 1 3)).len.toNat)
  request := by decide
  requestIdle := by decide
  pending := by decide
  bufferIdle := by decide
  staged := by decide
  received := by decide
  stalledWrite := by decide
  ackLevel := by decide
  stalledConnecting := by decide
  blockPositive := by decide
  blockAligned := by decide
  queue := fun _ hf => nomatch (show _ ∈ ([] : List Frame) from hf)
  attnLevel := by decide

theorem witness_inv_step :
    (stepped (waiting { stalledState with fc := { acc := [], hdr := some (decodeHeader (header 1 3)) } }
      [.remoteByte 0])).map (fun t => (t.dc.audio, t.te.stage)) = some (.connected, .awaitingRequest) := by decide

/-- StalledExactlyWhileConnecting, AudioTransitionsComplete: a transition by each of the three kinds of event. -/
theorem witness_transitions :
    (stalledState.te.stage = .stalled ↔ stalledState.dc.audio = .connecting) ∧
    (stepped (waiting stalledState [.reset])).map (fun t => t.dc.audio) = some .disconnected ∧
    (State.reset.te.stage = .stalled ↔ State.reset.dc.audio = .connecting) ∧
    (stepped (waiting (inData State.reset .audioSource .write [0#8, 0#8, 0#8, 0#8, 1#8] 1) [.hostByte 0])).map
      (fun t => t.dc.audio) = some .connecting ∧
    (stepped (waiting (inData (streaming 4) .audioSource .write [0#8, 0#8, 0#8, 0#8, 0#8] 1) [.hostByte 0])).map
      (fun t => t.dc.audio) = some .disconnected := by decide

/-- AudioTransitionsComplete, ErrorLatch: the three transitions by an ACM frame's code. -/
theorem witness_transitions_acm :
    AwaitsAcmCode { stalledState with fc := { acc := [], hdr := some (decodeHeader (header 1 3)) } } ∧
    (after (.remoteByte 0) { stalledState with fc := { acc := [], hdr := some (decodeHeader (header 1 3)) } }).map
      (fun t => (t.dc.audio, t.dc.err)) = some (.connected, false) ∧
    (after (.remoteByte 1) { stalledState with fc := { acc := [], hdr := some (decodeHeader (header 1 3)) } }).map
      (fun t => (t.dc.audio, t.dc.err)) = some (.disconnected, true) ∧
    (after (.remoteByte 0xFF) { streaming 0 with fc := { acc := [], hdr := some (decodeHeader (header 1 3)) } }).map
      (fun t => (t.dc.audio, t.dc.err)) = some (.disconnected, true) :=
  ⟨⟨_, rfl, by decide⟩, by decide⟩

/-- ConnectedLatch: a step that keeps the latch and one that sets it. -/
theorem witness_connected :
    (stepped (waiting linked [.hostFinish])).map (fun t => t.dc.connected) = some true ∧
    (waiting linked [.hostFinish]).input.head? ≠ some .reset ∧
    State.reset.dc.connected = false ∧
    (stepped (waiting { State.reset with fc := { acc := [], hdr := some (decodeHeader (header 1 0)) } }
      [.remoteByte 0])).map (fun t => t.dc.connected) = some true := by decide

/-- ErrorLatch: set by an ACM frame, cleared by a STATUS request. -/
theorem witness_error :
    (stepped (waiting { streaming 0 with fc := { acc := [], hdr := some (decodeHeader (header 1 3)) } }
      [.remoteByte 7])).map (fun t => t.dc.err) = some true ∧ (streaming 0).dc.err = false ∧
    (stepped (waiting { State.reset with dc.err := true } [.hostByte 0])).map (fun t => t.dc.err) = some false := by
  decide

/-- HostByteRepliesAndSendsLast: a byte that sends. -/
theorem witness_sends :
    (after (.hostByte 0) (inData linked .message .write (List.replicate 63 0) 1)).map (fun t => t.out.tx.length) =
      some 75 := by decide

/-- HostBytesIndependentOfCodec, RemoteBytesLeaveTransactionsAlone: a remote byte in a data phase, and one that ends a
stall. -/
theorem witness_independent :
    (after (.hostByte 0) State.reset).isSome = true ∧
    (after (.remoteByte 0) (inData State.reset .status .read [1#8] 1)).map (fun t => t.te.stage) = some .awaitingData ∧
    (after (.remoteByte 0) { stalledState with fc := { acc := [], hdr := some (decodeHeader (header 1 3)) } }).map
      (fun t => (t.te.stage, t.ack)) = some (.awaitingRequest, false) := by decide

/-- AttentionLineFollowsTheMode: an accepted STATUS read and a Control frame, in both modes. -/
theorem witness_attention :
    (fresh .w1 .clearOnRead).cfg.codes.Wf .w1 ∧
    (after (.hostByte 0) { fresh .w1 .clearOnRead with attn := true }).map
      (fun t => (t.te.stage, t.te.reg, t.te.dir, t.attn)) = some (.awaitingData, .status, .read, false) ∧
    (after (.hostByte 2) { fresh .w1 .clearOnRead with attn := true, dc.msgq := [message8] }).map
      (fun t => (t.te.reg, t.attn)) = some (.message, true) ∧
    (fresh .w1 .clearOnEmpty).cfg.attnMode = .clearOnEmpty := by decide

end Sys2Proof.Tests
end

section
/-! PROOFS. The assembled request word (R97): what it keeps of the bytes at each width (R108). -/

namespace Sys2Proof

theorem toNat_decU16 (l : List Byte) (off : Nat) :
    (decU16 l off).toNat = (byteAt l off).toNat + 256 * (byteAt l (off + 1)).toNat := by
  have h0 := (byteAt l off).isLt
  have h1 := (byteAt l (off + 1)).isLt
  rw [decU16, BitVec.toNat_ofNat, Nat.mod_eq_of_lt (by omega)]

theorem toNat_decU32 (l : List Byte) (off : Nat) :
    (decU32 l off).toNat = (byteAt l off).toNat + 256 * (byteAt l (off + 1)).toNat
      + 65536 * (byteAt l (off + 2)).toNat + 16777216 * (byteAt l (off + 3)).toNat := by
  have h0 := (byteAt l off).isLt
  have h1 := (byteAt l (off + 1)).isLt
  have h2 := (byteAt l (off + 2)).isLt
  have h3 := (byteAt l (off + 3)).isLt
  rw [decU32, BitVec.toNat_ofNat, Nat.mod_eq_of_lt (by omega)]

/-- A list is determined by its length and the bytes a decoder reads from it. -/
theorem eq_of_byteAt_eq {l l' : List Byte} (hlen : l.length = l'.length)
    (h : ∀ k < l.length, byteAt l k = byteAt l' k) : l = l' := by
  refine List.ext_getElem hlen fun k hk hk' => ?_
  simpa [byteAt, List.getD_eq_getElem?_getD, hk, hk'] using h k hk

/-- The two bytes of a u16 are its digits in base 256, so no two pairs share a value. -/
theorem decU16_injective {q q' : List Byte} (hq : q.length = 2) (hq' : q'.length = 2)
    (h : decU16 q 0 = decU16 q' 0) : q = q' := by
  have hn := congrArg BitVec.toNat h
  simp only [toNat_decU16, Nat.zero_add] at hn
  refine eq_of_byteAt_eq (hq.trans hq'.symm) fun k hk => BitVec.eq_of_toNat_eq ?_
  have := (byteAt q 0).isLt
  have := (byteAt q' 0).isLt
  obtain rfl | rfl : k = 0 ∨ k = 1 := by omega
  all_goals omega

/-- The four bytes of a u32 are its digits in base 256. -/
theorem decU32_injective {q q' : List Byte} (hq : q.length = 4) (hq' : q'.length = 4)
    (h : decU32 q 0 = decU32 q' 0) : q = q' := by
  have hn := congrArg BitVec.toNat h
  simp only [toNat_decU32, Nat.zero_add] at hn
  refine eq_of_byteAt_eq (hq.trans hq'.symm) fun k hk => BitVec.eq_of_toNat_eq ?_
  have := (byteAt q 0).isLt
  have := (byteAt q' 0).isLt
  have := (byteAt q 1).isLt
  have := (byteAt q' 1).isLt
  have := (byteAt q 2).isLt
  have := (byteAt q' 2).isLt
  obtain rfl | rfl | rfl | rfl : k = 0 ∨ k = 1 ∨ k = 2 ∨ k = 3 := by omega
  all_goals omega

/-- Words of two or four bytes are assembled without a mask, so the word gives the bytes back (R97, R108). -/
theorem requestWord_injective {wd : ReqWidth} {q q' : List Byte} (hwd : wd ≠ .w1) (hq : q.length = wd.bytes)
    (hq' : q'.length = wd.bytes) (h : requestWord wd q = requestWord wd q') : q = q' := by
  cases wd with
  | w1 => exact absurd rfl hwd
  | w2 =>
    refine decU16_injective hq hq' (BitVec.eq_of_toNat_eq ?_)
    simpa only [requestWord, BitVec.toNat_setWidth_of_le (show 16 ≤ 32 by decide)] using congrArg BitVec.toNat h
  | w4 => exact decU32_injective hq hq' h

/-- At width 1 the mask leaves only the low seven bits of the byte in the word (R97). -/
theorem requestWord_w1_congr {b b' : Byte} (h : b &&& 0x7F#8 = b' &&& 0x7F#8) :
    requestWord .w1 [b] = requestWord .w1 [b'] :=
  congrArg (BitVec.setWidth 32) h

/-- Bit 7 set and bit 7 clear are two spellings of one request word (R108). -/
theorem requestWord_w1_spellings (b : Byte) :
    requestWord .w1 [b ||| 0x80#8] = requestWord .w1 [b &&& 0x7F#8] := by
  have hset : (b ||| 0x80#8) &&& 0x7F#8 = b &&& 0x7F#8 := by
    rw [BitVec.and_comm, BitVec.and_or_distrib_left, BitVec.and_comm]
    simp
  have hclear : (b &&& 0x7F#8) &&& 0x7F#8 = b &&& 0x7F#8 := by
    rw [BitVec.and_assoc, BitVec.and_self]
  exact requestWord_w1_congr (hset.trans hclear.symm)

namespace Machine

/-- A byte that completes a request word runs the request the word names (R97 to R99, R163 to R165). -/
theorem exec_hostByte_request {s : State} (hs : s.te.stage = .awaitingRequest)
    (hlen : s.cfg.reqWidth.bytes ≤ s.te.req.length + 1) (b : Byte) :
    let w := requestWord s.cfg.reqWidth (s.te.req ++ [b])
    exec (.hostByte b) s =
      .next (requestStep (requestAct (requestDir w) (requestAddr w) (addressDecode s.cfg.codes (requestAddr w))) s) := by
  rcases execHostByte_cases b s with ⟨-, hlt, -⟩ | ⟨-, -, h⟩ | ⟨hdata, -⟩ | ⟨hstall, -⟩
  · omega
  · exact h
  · simp [hs] at hdata
  · simp [hs] at hstall

/-- Two bytes that complete the same word have the same outcome: the byte matters only through the word (R97). -/
theorem exec_hostByte_congr {s : State} {b b' : Byte} (hs : s.te.stage = .awaitingRequest)
    (hlen : s.cfg.reqWidth.bytes ≤ s.te.req.length + 1)
    (h : requestWord s.cfg.reqWidth (s.te.req ++ [b]) = requestWord s.cfg.reqWidth (s.te.req ++ [b'])) :
    exec (.hostByte b) s = exec (.hostByte b') s := by
  rw [exec_hostByte_request hs hlen, exec_hostByte_request hs hlen, h]

end Machine

end Sys2Proof
end

section
/-! PROOFS. Bit 7 of a request byte (R108). -/

namespace Sys2Proof.Machine

/-- Settles O4: at width 1 the two bytes complete the same word, and the wider words are injective. -/
theorem requestBitSevenIgnored : Obligations.RequestBitSevenIgnored := by
  refine ⟨fun s b hw hs hreq => ?_, fun wd q q' hwd hq hq' h => requestWord_injective hwd hq hq' h⟩
  apply exec_hostByte_congr hs
  · simp [hw, hreq, ReqWidth.bytes]
  · simpa [hw, hreq] using requestWord_w1_spellings b

end Sys2Proof.Machine
end

section
/-! PROOFS. The little-endian codec in base 256 (R130 to R133): the digits an encoder answers, the bytes a decoder reads,
and the outcomes of the four operations. -/

namespace Sys2Proof

/-- A byte cut out of a word from bit `k` up is a quotient of the word's value, reduced to 8 bits. -/
theorem extractLsb'_eq_ofNat_div {w : Nat} (v : BitVec w) (k : Nat) :
    v.extractLsb' k 8 = BitVec.ofNat 8 (v.toNat / 2 ^ k) := by
  rw [BitVec.extractLsb', Nat.shiftRight_eq_div_pow]

theorem encU16_eq_digits (v : U16) : encU16 v = [BitVec.ofNat 8 v.toNat, BitVec.ofNat 8 (v.toNat / 256)] := by
  simp only [encU16, extractLsb'_eq_ofNat_div, Nat.reducePow, Nat.div_one]

theorem encU32_eq_digits (v : U32) :
    encU32 v = [BitVec.ofNat 8 v.toNat, BitVec.ofNat 8 (v.toNat / 256), BitVec.ofNat 8 (v.toNat / 65536),
      BitVec.ofNat 8 (v.toNat / 16777216)] := by
  simp only [encU32, extractLsb'_eq_ofNat_div, Nat.reducePow, Nat.div_one]

@[simp] theorem byteAt_cons_zero (b : Byte) (l : List Byte) : byteAt (b :: l) 0 = b := rfl

@[simp] theorem byteAt_cons_succ (b : Byte) (l : List Byte) (k : Nat) : byteAt (b :: l) (k + 1) = byteAt l k := rfl

/-- Reading past a prefix is reading the rest. -/
theorem decU16_append_right (l r : List Byte) (k : Nat) : decU16 (l ++ r) (l.length + k) = decU16 r k := by
  simp only [decU16, Nat.add_assoc, byteAt_append_right]

theorem decU32_append_right (l r : List Byte) (k : Nat) : decU32 (l ++ r) (l.length + k) = decU32 r k := by
  simp only [decU32, Nat.add_assoc, byteAt_append_right]

namespace Machine

theorem exec_encU16 (v : U16) (s : State) : exec (.encU16 v) s = .next (s.returning (.bytes (encU16 v))) := rfl

theorem exec_encU32 (v : U32) (s : State) : exec (.encU32 v) s = .next (s.returning (.bytes (encU32 v))) := rfl

/-- Within the list DEC_U16 answers the decoded value and writes nothing else (R132). -/
theorem exec_decU16_of_le {l : List Byte} {off : Nat} (h : off + 2 ≤ l.length) (s : State) :
    exec (.decU16 l off) s = .next (s.returning (.u16 (decU16 l off))) := if_pos h

/-- Within the list DEC_U32 answers the decoded value and writes nothing else (R133). -/
theorem exec_decU32_of_le {l : List Byte} {off : Nat} (h : off + 4 ≤ l.length) (s : State) :
    exec (.decU32 l off) s = .next (s.returning (.u32 (decU32 l off))) := if_pos h

end Machine

end Sys2Proof
end

section
/-! PROOFS. The four codec operations (R130 to R133). -/

namespace Sys2Proof.Machine

/-- Settles O6: the encoders return their bytes, and the bytes are the base 256 digits of the value. -/
theorem encodersReturnLittleEndianBytes : Obligations.EncodersReturnLittleEndianBytes := by
  refine fun s => ⟨fun v => ?_, fun v => ?_⟩
  · rw [exec_encU16, encU16_eq_digits, State.returning]
  · rw [exec_encU32, encU32_eq_digits, State.returning]

/-- Settles O7: past the prefix the decoders read the given bytes, which are the digits of the value returned. -/
theorem decodersReadLittleEndianBytes : Obligations.DecodersReadLittleEndianBytes := by
  refine fun s => ⟨fun pre post a b => ?_, fun pre post a b c d => ?_⟩
  · refine ⟨_, ?_, exec_decU16_of_le (by simp) s⟩
    rw [← Nat.add_zero pre.length, decU16_append_right, toNat_decU16]
    simp
  · refine ⟨_, ?_, exec_decU32_of_le (by simp) s⟩
    rw [← Nat.add_zero pre.length, decU32_append_right, toNat_decU32]
    simp

end Sys2Proof.Machine
end

section
/-! PROOFS. The outbound half of the frame codec (R92, R144): the bytes of a frame and the outcome of SEND. -/

namespace Sys2Proof

/-- `channelCode` is the one byte that agrees with the configured code of every channel (R92). -/
theorem eq_channelCode_iff (c : Codes) (chan : Channel) (b : Byte) :
    b = channelCode c chan ↔
      (chan = .config → b = c.chConfig) ∧ (chan = .control → b = c.chControl) ∧
        (chan = .audio → b = c.chAudio) ∧ (chan = .acm → b = c.chAcm) := by
  cases chan <;> simp [channelCode]

namespace Machine

/-- The bytes of a frame, field by field in header order, then the payload (R92, R144). -/
theorem wire_eq_fields (c : Codes) (f : Frame) :
    wire c f = encU32 f.len ++ encU32 f.addr ++ encU16 f.port ++ [channelCode c f.chan] ++ f.payload := rfl

theorem wire_length_of_wf (c : Codes) {f : Frame} (hf : f.Wf) : (wire c f).length = 11 + f.len.toNat := by
  rw [wire_length, hf]

theorem exec_send (f : Frame) (s : State) : exec (.send f) s = .next (s.emitAll (wire s.cfg.codes f)) := rfl

end Machine

end Sys2Proof
end

section
/-! PROOFS. SEND (R144). -/

namespace Sys2Proof.Machine

/-- Settles O41: the bytes are the frame's wire bytes, whose channel byte the four hypotheses on `ch` determine. -/
theorem sendEmitsHeaderThenPayload : Obligations.SendEmitsHeaderThenPayload := by
  intro s f ch hconfig hcontrol haudio hacm
  have hch : ch = channelCode s.cfg.codes f.chan :=
    (eq_channelCode_iff s.cfg.codes f.chan ch).mpr ⟨hconfig, hcontrol, haudio, hacm⟩
  refine ⟨wire s.cfg.codes f, ?_, ?_, wire_length_of_wf s.cfg.codes⟩
  · rw [exec_send, State.emitAll]
  · rw [hch, wire_eq_fields]

end Sys2Proof.Machine
end

section
/-! PROOFS. Completion and unblock (R168, R169). -/

namespace Sys2Proof.Machine

theorem exec_unblock (s : State) : exec .unblock s = .next (unblock s) := rfl

theorem exec_complete (s : State) : exec .complete s = .next (complete s) := rfl

/-- All that `Complete()` assigns (R168). -/
theorem complete_eq_assignments (s : State) :
    complete s =
      { s with te := { s.te with buf := [], remaining := 0, stage := .awaitingRequest }, ack := false } := rfl

theorem unblock_of_stalled {s : State} (h : s.te.stage = .stalled) : unblock s = complete s := by
  obtain ⟨-, hu⟩ | ⟨hne, -⟩ := unblock_cases s
  · exact hu
  · exact absurd h hne

theorem unblock_of_not_stalled {s : State} (h : s.te.stage ≠ .stalled) :
    unblock s = s.raise .unblockWhileNotStalled := by
  obtain ⟨hst, -⟩ | ⟨-, hu⟩ := unblock_cases s
  · exact absurd hst h
  · exact hu

/-- Settles O45: COMPLETE is `Complete()`. -/
theorem completeEndsTheTransaction : Obligations.CompleteEndsTheTransaction := by
  intro s
  rw [exec_complete, complete_eq_assignments]

/-- Settles O42: UNBLOCK is `Complete()` in `Stalled` and the coordination error in the other two stages. -/
theorem unblockCompletesAStall : Obligations.UnblockCompletesAStall := by
  refine fun s => ⟨fun hst => ?_, fun hne => ?_⟩
  · rw [exec_unblock, unblock_of_stalled hst, complete_eq_assignments]
  · rw [exec_unblock, unblock_of_not_stalled hne, State.raise]

end Sys2Proof.Machine
end

section
/-! PROOFS. What a remote byte puts out (R141, R227). -/

namespace Sys2Proof.Machine

theorem exec_remoteByte (b : Byte) (s : State) : exec (.remoteByte b) s = execRemoteByte b s := rfl

/-- An operation that puts nothing on the frame link and replies nothing to the host (R227). -/
def Silent (act : State → State) : Prop :=
  ∀ s, (act s).out.tx = s.out.tx ∧ (act s).out.reply = s.out.reply

theorem silent_id : Silent id := fun _ => ⟨rfl, rfl⟩

theorem silent_dropFrame (ch : Byte) : Silent (dropFrame ch) := fun _ => ⟨rfl, rfl⟩

theorem silent_dispatch (f : Frame) : Silent (dispatch f) := by
  intro s
  obtain ⟨-, -, -, htx, hreply, -⟩ := dispatch_frame f s
  exact ⟨htx, hreply⟩

/-- Settles O54: the step clears the outputs, and whichever of its three acts follows is silent. -/
theorem remoteByteNeverTransmits : Obligations.RemoteByteNeverTransmits := by
  intro s b
  obtain ⟨fc, act, hstep, hact⟩ := execRemoteByte_acts b s
  have hsilent : Silent act := by
    rcases hact with rfl | ⟨ch, rfl⟩ | ⟨f, rfl⟩
    · exact silent_id
    · exact silent_dropFrame ch
    · exact silent_dispatch f
  obtain ⟨htx, hreply⟩ := hsilent ({ s with fc := fc } : State).clearOut
  exact ⟨_, (exec_remoteByte b s).trans hstep, htx, hreply⟩

end Sys2Proof.Machine
end

section
/-! PROOFS. RESET (R290). -/

namespace Sys2Proof.Machine

theorem exec_reset (s : State) : exec .reset s = .next (resetAll s) := rfl

/-- Settles O39: RESET answers `resetAll s`, and the record's projection laws give each field. -/
theorem resetReinitializes : Obligations.ResetReinitializes := by
  intro s
  refine ⟨resetAll s, exec_reset s, resetAll_cfg s, ?fcAcc, ?fcHdr, ?stage, ?req, ?buf, ?remaining, resetAll_ack s,
    resetAll_dc s, resetAll_attn s, ?reply, ?tx, resetAll_input s⟩
  case fcAcc | fcHdr => rw [resetAll_fc]
  case stage | req | buf | remaining => rw [resetAll_te]
  case reply | tx => rw [resetAll_out, Output.empty]

end Sys2Proof.Machine
end

section
/-! PROOFS. Request words in numbers (R97, R98): a word is its address doubled plus its direction bit, and decoding and
encoding of its bytes invert each other. -/

namespace Sys2Proof

/-! ### The integer codec (R130 to R133) -/

theorem decU16_encU16 (v : U16) (rest : List Byte) : decU16 (encU16 v ++ rest) 0 = v := by
  refine BitVec.eq_of_toNat_eq ?_
  have hv := v.isLt
  simp only [encU16_eq_digits, toNat_decU16, List.cons_append, Nat.zero_add, byteAt_cons_zero, byteAt_cons_succ,
    BitVec.toNat_ofNat]
  omega

theorem decU32_encU32 (v : U32) (rest : List Byte) : decU32 (encU32 v ++ rest) 0 = v := by
  refine BitVec.eq_of_toNat_eq ?_
  have hv := v.isLt
  simp only [encU32_eq_digits, toNat_decU32, List.cons_append, Nat.zero_add, byteAt_cons_zero, byteAt_cons_succ,
    BitVec.toNat_ofNat]
  omega

/-- Two bytes are recovered from their value, because they encode to some bytes of that value and no others have it. -/
theorem encU16_decU16 {l : List Byte} (h : l.length = 2) : encU16 (decU16 l 0) = l :=
  decU16_injective (encU16_length _) h (by simpa using decU16_encU16 (decU16 l 0) [])

theorem encU32_decU32 {l : List Byte} (h : l.length = 4) : encU32 (decU32 l 0) = l :=
  decU32_injective (encU32_length _) h (by simpa using decU32_encU32 (decU32 l 0) [])

/-- Reading two bytes at an offset is reading the piece of the list that stands there. -/
theorem encU16_decU16_at {l : List Byte} {off : Nat} (h : off + 2 ≤ l.length) :
    encU16 (decU16 l off) = (l.drop off).take 2 := by
  have hlen : ((l.drop off).take 2).length = 2 := by simp; omega
  have hoff : decU16 l off = decU16 (l.drop off) 0 := by
    have := decU16_append_right (l.take off) (l.drop off) 0
    rwa [List.take_append_drop, List.length_take_of_le (by omega)] at this
  have hcut := decU16_append_left (l := (l.drop off).take 2) (off := 0) (by omega) ((l.drop off).drop 2)
  rw [List.take_append_drop] at hcut
  rw [hoff, hcut, encU16_decU16 hlen]

theorem encU32_decU32_at {l : List Byte} {off : Nat} (h : off + 4 ≤ l.length) :
    encU32 (decU32 l off) = (l.drop off).take 4 := by
  have hlen : ((l.drop off).take 4).length = 4 := by simp; omega
  have hoff : decU32 l off = decU32 (l.drop off) 0 := by
    have := decU32_append_right (l.take off) (l.drop off) 0
    rwa [List.take_append_drop, List.length_take_of_le (by omega)] at this
  have hcut := decU32_append_left (l := (l.drop off).take 4) (off := 0) (by omega) ((l.drop off).drop 4)
  rw [List.take_append_drop] at hcut
  rw [hoff, hcut, encU32_decU32 hlen]

/-! ### The two fields of a request word (R98) -/

theorem toNat_wordOf (d : Dir) (a : RegAddr) : (wordOf d a).toNat = 2 * a.toNat + (dirBit d).toNat := by
  have hd := (dirBit d).isLt
  rw [wordOf, BitVec.toNat_append, ← Nat.shiftLeft_add_eq_or_of_lt hd, Nat.shiftLeft_eq]
  omega

theorem toNat_requestAddr (w : U32) : (requestAddr w).toNat = w.toNat / 2 := by
  have hw := w.isLt
  rw [requestAddr, BitVec.extractLsb'_toNat, Nat.shiftRight_eq_div_pow]
  omega

theorem requestDir_eq (w : U32) : requestDir w = if w.toNat % 2 = 1 then .write else .read := by
  simp only [requestDir, BitVec.getLsbD, Nat.testBit_zero, decide_eq_true_eq]

theorem toNat_dirBit_requestDir (w : U32) : (dirBit (requestDir w)).toNat = w.toNat % 2 := by
  rw [requestDir_eq]
  rcases Nat.mod_two_eq_zero_or_one w.toNat with h | h <;> rw [h] <;> rfl

@[simp] theorem requestAddr_wordOf (d : Dir) (a : RegAddr) : requestAddr (wordOf d a) = a := by
  refine BitVec.eq_of_toNat_eq ?_
  have hd := (dirBit d).isLt
  rw [toNat_requestAddr, toNat_wordOf]
  omega

@[simp] theorem requestDir_wordOf (d : Dir) (a : RegAddr) : requestDir (wordOf d a) = d := by
  cases d <;> simp [requestDir_eq, toNat_wordOf, dirBit, Nat.add_mod]

/-- A word is nothing but its direction and its address. -/
theorem wordOf_request (w : U32) : wordOf (requestDir w) (requestAddr w) = w := by
  refine BitVec.eq_of_toNat_eq ?_
  rw [toNat_wordOf, toNat_requestAddr, toNat_dirBit_requestDir]
  omega

/-- An address within the field keeps the word within the request's bytes; one byte leaves bit 7 clear. -/
theorem toNat_wordOf_lt {wd : ReqWidth} {d : Dir} {a : RegAddr} (h : a.toNat < wd.addrLimit) :
    (wordOf d a).toNat < 2 * wd.addrLimit := by
  have hd := (dirBit d).isLt
  rw [toNat_wordOf]
  omega

theorem toNat_requestWord_lt (wd : ReqWidth) (q : List Byte) : (requestWord wd q).toNat < 2 * wd.addrLimit := by
  cases wd with
  | w1 =>
    have h : (byteAt q 0 &&& 0x7F#8).toNat ≤ 127 := by
      rw [BitVec.toNat_and]; exact Nat.and_le_right
    simp only [requestWord, ReqWidth.addrLimit, BitVec.toNat_setWidth]
    omega
  | w2 =>
    have h := (decU16 q 0).isLt
    simp only [requestWord, ReqWidth.addrLimit, BitVec.toNat_setWidth]
    omega
  | w4 =>
    have h := (decU32 q 0).isLt
    simp only [requestWord, ReqWidth.addrLimit]
    omega

/-- Whatever the bytes, the address they name fits its field (R60, R98). -/
theorem requestAddr_requestWord_lt (wd : ReqWidth) (q : List Byte) :
    (requestAddr (requestWord wd q)).toNat < wd.addrLimit := by
  have h := toNat_requestWord_lt wd q
  rw [toNat_requestAddr]
  omega

theorem and_127_of_lt {b : Byte} (h : b.toNat < 128) : b &&& 0x7F#8 = b := by
  refine BitVec.eq_of_toNat_eq ?_
  rw [BitVec.toNat_and, show (0x7F#8).toNat = 2 ^ 7 - 1 from rfl, Nat.and_two_pow_sub_one_eq_mod]
  exact Nat.mod_eq_of_lt h

/-- The bytes of a request assemble to its word again (R97, R100). -/
theorem requestWord_encodeRequest {wd : ReqWidth} (d : Dir) {a : RegAddr} (h : a.toNat < wd.addrLimit)
    (rest : List Byte) : requestWord wd (encodeRequest wd d a ++ rest) = wordOf d a := by
  have hlt := toNat_wordOf_lt (d := d) h
  cases wd with
  | w1 =>
    simp only [ReqWidth.addrLimit] at hlt
    have h8 : ((wordOf d a).setWidth 8).toNat < 128 := by rw [BitVec.toNat_setWidth]; omega
    simp only [requestWord, encodeRequest, List.cons_append, byteAt_cons_zero, and_127_of_lt h8]
    exact BitVec.eq_of_toNat_eq (by rw [BitVec.toNat_setWidth, BitVec.toNat_setWidth]; omega)
  | w2 =>
    simp only [ReqWidth.addrLimit] at hlt
    simp only [requestWord, encodeRequest, decU16_encU16]
    exact BitVec.eq_of_toNat_eq (by rw [BitVec.toNat_setWidth, BitVec.toNat_setWidth]; omega)
  | w4 => exact decU32_encU32 _ rest

/-- A request word encodes to bytes that assemble to it. -/
theorem requestWord_encodeRequest_requestWord (wd : ReqWidth) (q : List Byte) :
    requestWord wd (encodeRequest wd (requestDir (requestWord wd q)) (requestAddr (requestWord wd q))) =
      requestWord wd q := by
  have := requestWord_encodeRequest (requestDir (requestWord wd q)) (requestAddr_requestWord_lt wd q) []
  rwa [List.append_nil, wordOf_request] at this

/-- Words of two or four bytes give their bytes back. -/
theorem encodeRequest_requestWord {wd : ReqWidth} (hwd : wd ≠ .w1) {q : List Byte} (hq : q.length = wd.bytes) :
    encodeRequest wd (requestDir (requestWord wd q)) (requestAddr (requestWord wd q)) = q :=
  requestWord_injective hwd (encodeRequest_length _ _ _) hq (requestWord_encodeRequest_requestWord wd q)

/-- A word of one byte gives its byte back with bit 7 clear (R97). -/
theorem encodeRequest_requestWord_w1 (b : Byte) (tl : List Byte) :
    encodeRequest .w1 (requestDir (requestWord .w1 (b :: tl))) (requestAddr (requestWord .w1 (b :: tl))) =
      [b &&& 0x7F#8] := by
  simp only [encodeRequest, wordOf_request, requestWord, byteAt_cons_zero]
  rw [BitVec.setWidth_setWidth_of_le _ (by decide), BitVec.setWidth_eq]

theorem requestWord_append_left {wd : ReqWidth} {q : List Byte} (h : wd.bytes ≤ q.length) (rest : List Byte) :
    requestWord wd (q ++ rest) = requestWord wd q := by
  cases wd with
  | w1 => exact congrArg (fun b => BitVec.setWidth 32 (b &&& 0x7F#8)) (byteAt_append_left h rest)
  | w2 => exact congrArg (BitVec.setWidth 32) (decU16_append_left h rest)
  | w4 => exact decU32_append_left h rest

end Sys2Proof
end

section
/-! PROOFS. The names of register addresses, channels, requests and frames (R93, R99, R106, R109). -/

namespace Sys2Proof

/-! ### Addresses and channels -/

/-- The address of a register (R74). -/
def regAddr (c : Codes) : Reg → RegAddr
  | .status => c.addrStatus
  | .message => c.addrMessage
  | .audioSource => c.addrAudioSource
  | .audioBlockSize => c.addrAudioBlockSize
  | .audioData => c.addrAudioData

/-- With distinct addresses each register is found at its own (R99). -/
theorem addressDecode_regAddr {c : Codes} (h : c.addresses.Nodup) (r : Reg) :
    addressDecode c (regAddr c r) = some r := by
  simp only [Codes.addresses, List.nodup_cons, List.mem_cons, List.not_mem_nil, or_false, not_or] at h
  obtain ⟨⟨h01, h02, h03, h04⟩, ⟨h12, h13, h14⟩, ⟨h23, h24⟩, h34, -⟩ := h
  cases r <;>
    simp [regAddr, addressDecode, Ne.symm h01, Ne.symm h02, Ne.symm h03, Ne.symm h04, Ne.symm h12, Ne.symm h13,
      Ne.symm h14, Ne.symm h23, Ne.symm h24, Ne.symm h34]

theorem eq_regAddr_of_addressDecode {c : Codes} {a : RegAddr} {r : Reg} (h : addressDecode c a = some r) :
    a = regAddr c r := by
  unfold addressDecode at h
  split_ifs at h with h0 h1 h2 h3 h4 <;> cases h <;> assumption

/-- An address is undefined when it is none of the five (R106). -/
theorem addressDecode_eq_none_iff {c : Codes} {a : RegAddr} : addressDecode c a = none ↔ a ∉ c.addresses := by
  unfold addressDecode
  split_ifs <;> simp_all [Codes.addresses]

/-- With distinct channel bytes each channel is found at its own (R93). -/
theorem channelDecode_channelCode {c : Codes} (h : c.channels.Nodup) (ch : Channel) :
    channelDecode c (channelCode c ch) = some ch := by
  simp only [Codes.channels, List.nodup_cons, List.mem_cons, List.not_mem_nil, or_false, not_or] at h
  obtain ⟨⟨h01, h02, h03⟩, ⟨h12, h13⟩, h23, -⟩ := h
  cases ch <;>
    simp [channelCode, channelDecode, Ne.symm h01, Ne.symm h02, Ne.symm h03, Ne.symm h12, Ne.symm h13, Ne.symm h23]

theorem eq_channelCode_of_channelDecode {c : Codes} {b : Byte} {ch : Channel} (h : channelDecode c b = some ch) :
    b = channelCode c ch := by
  unfold channelDecode at h
  split_ifs at h with h0 h1 h2 h3 <;> cases h <;> assumption

/-- A channel byte is undefined when it is none of the four (R109). -/
theorem channelDecode_eq_none_iff {c : Codes} {b : Byte} : channelDecode c b = none ↔ b ∉ c.channels := by
  unfold channelDecode
  split_ifs <;> simp_all [Codes.channels]

/-! ### Requests -/

@[simp] theorem link_requestInstr (wd : ReqWidth) (d : Dir) (a : RegAddr) (reg : Option Reg) :
    (requestInstr wd d a reg).link = some (.host wd) := by
  cases reg with
  | none => rfl
  | some r => cases r <;> cases d <;> rfl

theorem encode_requestInstr (c : Codes) (wd : ReqWidth) (d : Dir) (a : RegAddr) :
    encode c (requestInstr wd d a (addressDecode c a)) = encodeRequest wd d a := by
  cases h : addressDecode c a with
  | none => rfl
  | some r =>
    rw [eq_regAddr_of_addressDecode h]
    cases r <;> cases d <;> rfl

theorem wf_requestInstr (c : Codes) {wd : ReqWidth} (d : Dir) {a : RegAddr} (ha : a.toNat < wd.addrLimit) :
    (requestInstr wd d a (addressDecode c a)).wf c = true := by
  cases h : addressDecode c a with
  | none => exact decide_eq_true ⟨ha, addressDecode_eq_none_iff.mp h⟩
  | some r => cases r <;> cases d <;> rfl

/-- A request is that of its direction at the address of its register, or at its undefined address. -/
theorem request_of_link {c : Codes} {wd : ReqWidth} {i : Instr} (hc : c.Wf wd) (hw : i.wf c = true)
    (hl : i.link = some (.host wd)) :
    ∃ d a, a.toNat < wd.addrLimit ∧ i = requestInstr wd d a (addressDecode c a) := by
  obtain ⟨-, hnodup, hlt, -⟩ := hc
  have hreg : ∀ (d : Dir) (r : Reg), i = requestInstr wd d (regAddr c r) (some r) →
      ∃ d a, a.toNat < wd.addrLimit ∧ i = requestInstr wd d a (addressDecode c a) := by
    intro d r hi
    refine ⟨d, regAddr c r, hlt _ (List.mem_map_of_mem ?_), by rwa [addressDecode_regAddr hnodup]⟩
    cases r <;> simp [regAddr, Codes.addresses]
  cases i with
  | rdStatus w => cases hl; exact hreg .read .status rfl
  | wrStatus w => cases hl; exact hreg .write .status rfl
  | rdMessage w => cases hl; exact hreg .read .message rfl
  | wrMessage w => cases hl; exact hreg .write .message rfl
  | rdAudioSource w => cases hl; exact hreg .read .audioSource rfl
  | wrAudioSource w => cases hl; exact hreg .write .audioSource rfl
  | rdAudioBlockSize w => cases hl; exact hreg .read .audioBlockSize rfl
  | wrAudioBlockSize w => cases hl; exact hreg .write .audioBlockSize rfl
  | rdAudioData w => cases hl; exact hreg .read .audioData rfl
  | wrAudioData w => cases hl; exact hreg .write .audioData rfl
  | reqUndefined w d a =>
    cases hl
    obtain ⟨ha, hnone⟩ := of_decide_eq_true hw
    exact ⟨d, a, ha, by rw [addressDecode_eq_none_iff.mpr hnone]; rfl⟩
  | _ => cases hl

/-! ### Frames -/

@[simp] theorem link_frameInstr (c : Codes) (h : Header) (p : List Byte) :
    (frameInstr c h p).link = some .frame := by
  unfold frameInstr
  cases channelDecode c h.chan with
  | none => rfl
  | some ch => cases ch <;> rfl

theorem encode_frameInstr (c : Codes) (h : Header) (p : List Byte) :
    encode c (frameInstr c h p) = encodeFrame h.chan h.addr h.port p := by
  unfold frameInstr
  cases hch : channelDecode c h.chan with
  | none => rfl
  | some ch =>
    rw [eq_channelCode_of_channelDecode hch]
    cases ch <;> rfl

theorem wf_frameInstr (c : Codes) (h : Header) {p : List Byte} (hp : p.length < 2 ^ 32) :
    (frameInstr c h p).wf c = true := by
  unfold frameInstr
  cases hch : channelDecode c h.chan with
  | none => exact decide_eq_true ⟨channelDecode_eq_none_iff.mp hch, hp⟩
  | some ch => cases ch <;> exact decide_eq_true hp

/-- The header of a frame with payload `p` (R90). -/
def headerOf (ch : Byte) (addr : U32) (port : U16) (p : List Byte) : Header :=
  { len := BitVec.ofNat 32 p.length, addr := addr, port := port, chan := ch }

/-- A frame operation is the one its header names. -/
theorem frame_of_link {c : Codes} {wd : ReqWidth} {i : Instr} (hc : c.Wf wd) (hw : i.wf c = true)
    (hl : i.link = some .frame) :
    ∃ ch addr port p, p.length < 2 ^ 32 ∧ i = frameInstr c (headerOf ch addr port p) p := by
  obtain ⟨hnodup, -⟩ := hc
  cases i with
  | frameConfig addr port p =>
    refine ⟨c.chConfig, addr, port, p, of_decide_eq_true hw, ?_⟩
    simp only [frameInstr, headerOf, show channelDecode c c.chConfig = _ from channelDecode_channelCode hnodup .config]
  | frameControl addr port p =>
    refine ⟨c.chControl, addr, port, p, of_decide_eq_true hw, ?_⟩
    simp only [frameInstr, headerOf, show channelDecode c c.chControl = _ from channelDecode_channelCode hnodup .control]
  | frameAudio addr port p =>
    refine ⟨c.chAudio, addr, port, p, of_decide_eq_true hw, ?_⟩
    simp only [frameInstr, headerOf, show channelDecode c c.chAudio = _ from channelDecode_channelCode hnodup .audio]
  | frameAcm addr port p =>
    refine ⟨c.chAcm, addr, port, p, of_decide_eq_true hw, ?_⟩
    simp only [frameInstr, headerOf, show channelDecode c c.chAcm = _ from channelDecode_channelCode hnodup .acm]
  | frameUndefined ch addr port p =>
    obtain ⟨hch, hp⟩ := of_decide_eq_true hw
    refine ⟨ch, addr, port, p, hp, ?_⟩
    simp only [frameInstr, headerOf, channelDecode_eq_none_iff.mpr hch]
  | _ => cases hl

/-! ### Headers -/

theorem decodeHeader_encodeHeader (h : Header) (rest : List Byte) : decodeHeader (encodeHeader h ++ rest) = h := by
  have hlen := decU32_encU32 h.len (encU32 h.addr ++ (encU16 h.port ++ (h.chan :: rest)))
  have haddr := decU32_append_right (encU32 h.len) (encU32 h.addr ++ (encU16 h.port ++ (h.chan :: rest))) 0
  have hport := decU16_append_right (encU32 h.len ++ encU32 h.addr) (encU16 h.port ++ (h.chan :: rest)) 0
  have hchan := byteAt_append_right (encU32 h.len ++ encU32 h.addr ++ encU16 h.port) (h.chan :: rest) 0
  rw [decU32_encU32] at haddr
  rw [decU16_encU16] at hport
  simp only [List.length_append, encU32_length, encU16_length, byteAt_cons_zero, List.append_assoc,
    Nat.reduceAdd, Nat.add_zero] at haddr hport hchan
  simp only [decodeHeader, encodeHeader, List.append_assoc, List.cons_append, List.nil_append, hlen, haddr, hport,
    hchan]

theorem encodeHeader_decodeHeader {l : List Byte} (h : 11 ≤ l.length) : encodeHeader (decodeHeader l) = l.take 11 := by
  have hchan : [byteAt l 10] = (l.drop 10).take 1 := by
    rw [List.take_one_drop_eq_of_lt_length (by omega)]
    simp [byteAt, List.getD_eq_getElem?_getD, show 10 < l.length by omega]
  simp only [encodeHeader, decodeHeader, encU32_decU32_at (show 0 + 4 ≤ l.length by omega),
    encU32_decU32_at (show 4 + 4 ≤ l.length by omega), encU16_decU16_at (show 8 + 2 ≤ l.length by omega), hchan]
  rw [List.drop_zero, List.take_add (l := l) (i := 10) (j := 1), List.take_add (l := l) (i := 8) (j := 2),
    List.take_add (l := l) (i := 4) (j := 4)]

end Sys2Proof
end

section
/-! PROOFS. Encodings (30_encoding.md, 40_binary_codec.md). -/

namespace Sys2Proof

/-- Decoding the bytes of a request (R97 to R100). -/
theorem decodeRequest_encodeRequest (c : Codes) {wd : ReqWidth} (d : Dir) {a : RegAddr} (h : a.toNat < wd.addrLimit)
    (rest : List Byte) :
    decodeRequest c wd (encodeRequest wd d a ++ rest) = .instr (requestInstr wd d a (addressDecode c a)) rest := by
  refine decodeRequest_eq_instr.mpr ⟨by simp, ?_, ?_⟩
  · rw [requestWord_encodeRequest d h, requestDir_wordOf, requestAddr_wordOf]
  · rw [List.drop_left' (encodeRequest_length wd d a)]

/-- Decoding the bytes of a frame (R90 to R92). -/
theorem decodeFrame_encodeFrame (c : Codes) (ch : Byte) (addr : U32) (port : U16) {p : List Byte}
    (hp : p.length < 2 ^ 32) (rest : List Byte) :
    decodeFrame c (encodeFrame ch addr port p ++ rest) = .instr (frameInstr c (headerOf ch addr port p) p) rest := by
  have hhdr : decodeHeader (encodeFrame ch addr port p ++ rest) = headerOf ch addr port p := by
    rw [encodeFrame, List.append_assoc]
    exact decodeHeader_encodeHeader _ _
  have hlen : (headerOf ch addr port p).len.toNat = p.length := by
    simpa [headerOf] using hp
  have hdrop : (encodeFrame ch addr port p ++ rest).drop 11 = p ++ rest := by
    rw [encodeFrame, List.append_assoc, List.drop_left' (encodeHeader_length _)]
  refine decodeFrame_eq_instr.mpr ⟨?_, ?_, ?_⟩
  · rw [hhdr, hlen]; simp
  · rw [hhdr, hlen, hdrop, List.take_left]
  · rw [hhdr, hlen, List.drop_left' (encodeFrame_length ch addr port p)]

/-- Settles O1: a request is a direction and an address, a frame a header and a payload, and each is read back. -/
theorem decodeEncodeAgree : Obligations.DecodeEncodeAgree := by
  rintro c wd i lk rest hc hw hl (rfl | rfl)
  · obtain ⟨ch, addr, port, p, hp, rfl⟩ := frame_of_link hc hw hl
    rw [encode_frameInstr]
    exact decodeFrame_encodeFrame c ch addr port hp rest
  · obtain ⟨d, a, ha, rfl⟩ := request_of_link hc hw hl
    rw [encode_requestInstr]
    exact decodeRequest_encodeRequest c d ha rest

/-- Settles O2: the header's bytes are the first eleven, its length the payload's. -/
theorem frameDecodingLosesNoByte : Obligations.FrameDecodingLosesNoByte := by
  intro c wd l i rest hc h
  obtain ⟨hlen, rfl, rfl⟩ := decodeFrame_eq_instr.mp h
  have hp : ((l.drop 11).take (decodeHeader l).len.toNat).length = (decodeHeader l).len.toNat := by
    rw [List.length_take_of_le]; rw [List.length_drop]; omega
  refine ⟨?_, wf_frameInstr c _ (by rw [hp]; exact (decodeHeader l).len.isLt), link_frameInstr _ _ _⟩
  rw [encode_frameInstr, encodeFrame, hp, BitVec.ofNat_toNat, BitVec.setWidth_eq,
    encodeHeader_decodeHeader (by omega), ← List.take_add, List.take_append_drop]

/-- Settles O3: the word read is the word of its fields, and it gives its bytes back up to the mask of R97. -/
theorem requestDecodingLosesNoBit : Obligations.RequestDecodingLosesNoBit := by
  intro c wd q i rest hc h
  obtain ⟨hlen, rfl, rfl⟩ := decodeRequest_eq_instr.mp h
  refine ⟨wf_requestInstr c _ (requestAddr_requestWord_lt wd q), link_requestInstr _ _ _ _, fun hwd => ?_, ?_⟩
  · have htake : (q.take wd.bytes).length = wd.bytes := List.length_take_of_le hlen
    have hword : requestWord wd q = requestWord wd (q.take wd.bytes) := by
      conv_lhs => rw [← List.take_append_drop wd.bytes q]
      exact requestWord_append_left htake.ge _
    rw [encode_requestInstr, hword, encodeRequest_requestWord hwd htake, List.take_append_drop]
  · rintro rfl
    cases q with
    | nil => simp [ReqWidth.bytes] at hlen
    | cons b tl => exact ⟨b, tl, rfl, by rw [encode_requestInstr, encodeRequest_requestWord_w1]; rfl⟩

/-- Settles O5: each sample word is read by evaluating the decoder. -/
theorem sampleWordsDecode : Obligations.SampleWordsDecode := by
  unfold Obligations.SampleWordsDecode
  decide

/-- Settles O9: both round trips of both widths. -/
theorem codecRoundTrip : Obligations.CodecRoundTrip :=
  ⟨decU16_encU16, decU32_encU32, fun _ => encU16_decU16, fun _ => encU32_decU32⟩

namespace Machine

/-- Settles O8: past the end of the list the bounds test of the two operations fails. -/
theorem decodersFaultOutOfBounds : Obligations.DecodersFaultOutOfBounds :=
  fun _ _ _ => ⟨fun h => if_neg (Nat.not_le.mpr h), fun h => if_neg (Nat.not_le.mpr h)⟩

end Machine

end Sys2Proof
end

section
/-! PROOFS. The host byte (R161 to R167) as one function, and everything it can do. -/

namespace Sys2Proof.Machine

theorem exec_hostByte (b : Byte) (s : State) : exec (.hostByte b) s = execHostByte b s := rfl

/-! ### Requests -/

/-- The state in which the acceptance of a request is called (R162): `te.req` emptied, the reply `FILLER`. -/
def State.atRequest (s : State) : State :=
  { s with te.req := [], out := Output.host s.cfg.codes.filler [] [] }

theorem requestStep_eq (act : State → State × Bool) (s : State) :
    requestStep act s =
      (act s.atRequest).1.updateAttn s.flags (act s.atRequest).1.flags (act s.atRequest).2 := rfl

/-- Everything the acceptance of a request can do (R163 to R165, R190 to R195). -/
inductive RequestOutcome (s : State) : State × Bool → Prop where
  | rejected (d : Diag) (hd : d.isCoordinationError = false) : RequestOutcome s (s.raise d, false)
  | readStatus :
    RequestOutcome s (enterData .status .read (statusData s.cfg.codes.statusSize s.flags) s.cfg.codes.statusSize
      { s with dc.err := false }, true)
  | readMessage (f : Frame) (rest : List Frame) (hq : s.dc.msgq = f :: rest) :
    RequestOutcome s (enterData .message .read (readMessage s.cfg.codes f) f.payload.length
      { s with dc.msgq := rest }, false)
  | readAudio (hlen : s.dc.block.toNat ≤ s.dc.abuf.length) :
    RequestOutcome s (enterData .audioData .read (s.dc.abuf.take s.dc.block.toNat) s.dc.block.toNat
      { s with dc.abuf := s.dc.abuf.drop s.dc.block.toNat }, false)
  | write (r : Reg) (n : Nat) (hn : writeCount s.cfg.codes r = some n) :
    RequestOutcome s (enterData r .write [] n s, false)

theorem acceptRead_outcome (r : Reg) (s : State) : RequestOutcome s (acceptRead r s) := by
  rcases acceptRead_cases s r with ⟨d, h, hd⟩ | ⟨bytes, s1, hr, h⟩
  · rw [h]
    refine .rejected d ?_
    rcases hd with rfl | rfl <;> rfl
  · rcases regRead_cases s r with ⟨rfl, e⟩ | ⟨f, rest, rfl, hq, e⟩ | ⟨rfl, hlen, e⟩ | ⟨-, e⟩ | ⟨-, e⟩ <;>
      rw [hr] at e <;> cases e <;> rw [h]
    · rw [statusData_length]; exact .readStatus
    · rw [readMessage_length]; exact .readMessage f rest hq
    · rw [List.length_take_of_le hlen]; exact .readAudio hlen

theorem acceptWrite_outcome (r : Reg) (s : State) : RequestOutcome s (acceptWrite r s) := by
  rcases acceptWrite_cases s r with ⟨-, h⟩ | ⟨n, hn, h⟩ <;> rw [h]
  · exact .rejected _ rfl
  · exact .write r n hn

theorem requestAct_outcome (d : Dir) (a : RegAddr) (reg : Option Reg) (s : State) :
    RequestOutcome s (requestAct d a reg s) := by
  cases reg with
  | none => exact .rejected _ rfl
  | some r =>
    cases d with
    | read => exact acceptRead_outcome r s
    | write => exact acceptWrite_outcome r s

/-! ### Data bytes -/

/-- What becomes of a transaction when its write handler has answered (R166). -/
def finishWrite (r : Bool × State) : State :=
  if r.1 then complete r.2 else { r.2 with te.stage := .stalled }

/-- Everything a write handler can do (R196 to R202). -/
inductive WriteOutcome (buf : List Byte) (s : State) : Reg → Bool × State → Prop where
  | readOnly (r : Reg) (hr : writeCount s.cfg.codes r = none) :
    WriteOutcome buf s r (true, s.raise (.addressDecodeFailed r))
  | messageDropped (hc : s.dc.connected = false) : WriteOutcome buf s .message (true, s)
  | messageSent (hc : s.dc.connected = true) (l : List Byte) : WriteOutcome buf s .message (true, s.emitAll l)
  | alreadyDisconnected (hz : decU32 buf 0 = 0 ∧ decU16 buf 4 = 0) (ha : s.dc.audio = .disconnected) :
    WriteOutcome buf s .audioSource (true, s)
  | disconnected (hz : decU32 buf 0 = 0 ∧ decU16 buf 4 = 0) (ha : s.dc.audio ≠ .disconnected) :
    WriteOutcome buf s .audioSource (true, { s with dc.abuf := [], dc.audio := .disconnected }.emitAll
      (wire s.cfg.codes (makeFrame s.cfg .acm (encodeSource (decodeSource buf)))))
  | connecting (hz : ¬(decU32 buf 0 = 0 ∧ decU16 buf 4 = 0)) :
    WriteOutcome buf s .audioSource (false, { s with dc.abuf := [], dc.audio := .connecting }.emitAll
      (wire s.cfg.codes (makeFrame s.cfg .acm (encodeSource (decodeSource buf)))))
  | badBlock : WriteOutcome buf s .audioBlockSize (true, s.raise (.badBlockSize (decU32 buf 0)))
  | block (n : U32) (hv : decU32 buf 0 ≠ 0) (hn : n.toNat = roundup4 (decU32 buf 0).toNat) :
    WriteOutcome buf s .audioBlockSize (true, { s with dc.block := n })
  | blockRounded (n : U32) (hv : decU32 buf 0 ≠ 0) (hn : n.toNat = roundup4 (decU32 buf 0).toNat) :
    WriteOutcome buf s .audioBlockSize
      (true, { s with dc.block := n }.raise (.blockSizeRounded (decU32 buf 0) n))

theorem regWrite_outcome (r : Reg) (buf : List Byte) (s : State) : WriteOutcome buf s r (regWrite r buf s) := by
  cases r <;> simp only [regWrite]
  case status => exact .readOnly .status rfl
  case audioData => exact .readOnly .audioData rfl
  case message =>
    rcases messageWrite_cases buf s with ⟨hc, h⟩ | ⟨hc, l, h⟩ <;> rw [h]
    · exact .messageDropped hc
    · exact .messageSent hc l
  case audioSource =>
    rcases audioSourceWrite_cases buf s with ⟨hz, ha, h⟩ | ⟨hz, ha, h⟩ | ⟨hz, h⟩ <;> rw [h]
    · exact .alreadyDisconnected hz ha
    · exact .disconnected hz ha
    · exact .connecting hz
  case audioBlockSize =>
    rcases blockSizeWrite_cases buf s with h | ⟨n, hv, hn, h | h⟩ <;> rw [h]
    · exact .badBlock
    · exact .block n hv hn
    · exact .blockRounded n hv hn

/-- A data byte, up to `UpdateAttn` (R166). -/
def dataAct (b : Byte) (s : State) : State :=
  match s.te.dir with
  | .read => dataRead s.clearOut
  | .write => dataWrite b s.clearOut

theorem dataAct_read {s : State} (hd : s.te.dir = .read) (b : Byte) : dataAct b s = dataRead s.clearOut := by
  simp only [dataAct, hd]

theorem dataAct_write {s : State} (hd : s.te.dir = .write) (b : Byte) : dataAct b s = dataWrite b s.clearOut := by
  simp only [dataAct, hd]

theorem dataAct_read_last {s : State} (hd : s.te.dir = .read) (hr : s.te.remaining ≤ 1) (b : Byte) :
    dataAct b s = complete { s with out := Output.host (s.te.buf.headD s.cfg.codes.filler) [] [] } := by
  rw [dataAct_read hd]
  exact if_pos (show s.te.remaining - 1 = 0 by omega)

theorem dataAct_read_more {s : State} (hd : s.te.dir = .read) (hr : 1 < s.te.remaining) (b : Byte) :
    dataAct b s = { s with
      te.buf := s.te.buf.tail, te.remaining := s.te.remaining - 1
      out := Output.host (s.te.buf.headD s.cfg.codes.filler) [] [] } := by
  rw [dataAct_read hd]
  exact if_neg (show ¬s.te.remaining - 1 = 0 by omega)

theorem dataAct_write_more {s : State} (hd : s.te.dir = .write) (hr : 1 < s.te.remaining) (b : Byte) :
    dataAct b s = { s with
      te.buf := s.te.buf ++ [b], te.remaining := s.te.remaining - 1
      out := Output.host s.cfg.codes.filler [] [] } := by
  rw [dataAct_write hd]
  exact if_neg (show ¬s.te.remaining - 1 = 0 by omega)

theorem dataAct_write_last {s : State} (hd : s.te.dir = .write) (hr : s.te.remaining ≤ 1) (b : Byte) :
    dataAct b s = finishWrite (regWrite s.te.reg (s.te.buf ++ [b]) s.atHandler) := by
  rw [dataAct_write hd]
  exact dataWrite_last (by omega) b

/-! ### The host byte as a whole -/

/-- A host byte, up to `UpdateAttn`, and whether it was an accepted STATUS read (R161). -/
def hostAct (b : Byte) (s : State) : State × Bool :=
  match s.te.stage with
  | .awaitingRequest =>
    if s.te.req.length + 1 < s.cfg.reqWidth.bytes then
      ({ s with te.req := s.te.req ++ [b], out := Output.host s.cfg.codes.filler [] [] }, false)
    else
      let w := requestWord s.cfg.reqWidth (s.te.req ++ [b])
      requestAct (requestDir w) (requestAddr w) (addressDecode s.cfg.codes (requestAddr w)) s.atRequest
  | .awaitingData => (dataAct b s, false)
  | .stalled => ({ s with out := Output.host s.cfg.codes.filler [] [.byteWhileStalled b] }, false)

/-- HOST_BYTE is its act and then `UpdateAttn` on the status words before and after it (R161). -/
theorem execHostByte_eq (b : Byte) (s : State) :
    execHostByte b s =
      .next ((hostAct b s).1.updateAttn s.flags (hostAct b s).1.flags (hostAct b s).2) := by
  unfold hostAct
  rcases execHostByte_cases b s with ⟨hs, hlt, h⟩ | ⟨hs, hle, h⟩ | ⟨hs, h⟩ | ⟨hs, h⟩ <;> rw [h, hs]
  · simp only [if_pos hlt]; rfl
  · simp only [if_neg (Nat.not_lt.mpr hle)]; rfl
  · rfl
  · rfl

/-- Everything a host byte can do (R161 to R167). -/
inductive HostOutcome (b : Byte) (s : State) : State × Bool → Prop where
  | partialWord (hs : s.te.stage = .awaitingRequest) (hlen : s.te.req.length + 1 < s.cfg.reqWidth.bytes) :
    HostOutcome b s ({ s with te.req := s.te.req ++ [b], out := Output.host s.cfg.codes.filler [] [] }, false)
  | request (hs : s.te.stage = .awaitingRequest) (x : State × Bool) (hx : RequestOutcome s.atRequest x) :
    HostOutcome b s x
  | readMore (hs : s.te.stage = .awaitingData) (hd : s.te.dir = .read) (hr : 1 < s.te.remaining) :
    HostOutcome b s ({ s with
      te.buf := s.te.buf.tail, te.remaining := s.te.remaining - 1
      out := Output.host (s.te.buf.headD s.cfg.codes.filler) [] [] }, false)
  | readLast (hs : s.te.stage = .awaitingData) (hd : s.te.dir = .read) (hr : s.te.remaining ≤ 1) :
    HostOutcome b s (complete { s with out := Output.host (s.te.buf.headD s.cfg.codes.filler) [] [] }, false)
  | writeMore (hs : s.te.stage = .awaitingData) (hd : s.te.dir = .write) (hr : 1 < s.te.remaining) :
    HostOutcome b s ({ s with
      te.buf := s.te.buf ++ [b], te.remaining := s.te.remaining - 1
      out := Output.host s.cfg.codes.filler [] [] }, false)
  | writeLast (hs : s.te.stage = .awaitingData) (hd : s.te.dir = .write) (hr : s.te.remaining ≤ 1)
    (x : Bool × State) (hx : WriteOutcome (s.te.buf ++ [b]) s.atHandler s.te.reg x) :
    HostOutcome b s (finishWrite x, false)
  | stalled (hs : s.te.stage = .stalled) :
    HostOutcome b s ({ s with out := Output.host s.cfg.codes.filler [] [.byteWhileStalled b] }, false)

theorem hostAct_outcome (b : Byte) (s : State) : HostOutcome b s (hostAct b s) := by
  unfold hostAct
  cases hs : s.te.stage with
  | awaitingRequest =>
    by_cases hlen : s.te.req.length + 1 < s.cfg.reqWidth.bytes
    · simp only [if_pos hlen]; exact .partialWord hs hlen
    · simp only [if_neg hlen]; exact .request hs _ (requestAct_outcome _ _ _ _)
  | awaitingData =>
    cases hd : s.te.dir with
    | read =>
      rcases Nat.lt_or_ge 1 s.te.remaining with hr | hr
      · simp only [dataAct_read_more hd hr]; exact .readMore hs hd hr
      · simp only [dataAct_read_last hd hr]; exact .readLast hs hd hr
    | write =>
      rcases Nat.lt_or_ge 1 s.te.remaining with hr | hr
      · simp only [dataAct_write_more hd hr]; exact .writeMore hs hd hr
      · simp only [dataAct_write_last hd hr]; exact .writeLast hs hd hr _ (regWrite_outcome _ _ _)
  | stalled => exact .stalled hs

/-- What no host byte touches, and that it is always answered (R9, R161). -/
structure HostFrame (s t : State) : Prop where
  cfg : t.cfg = s.cfg
  fc : t.fc = s.fc
  attn : t.attn = s.attn
  input : t.input = s.input
  connected : t.dc.connected = s.dc.connected
  reply : t.out.reply.isSome

theorem RequestOutcome.frame {s : State} {x : State × Bool} (h : RequestOutcome s.atRequest x) :
    HostFrame s x.1 := by
  cases h <;> exact ⟨rfl, rfl, rfl, rfl, rfl, rfl⟩

theorem WriteOutcome.frame {buf : List Byte} {s : State} {r : Reg} {x : Bool × State}
    (h : WriteOutcome buf s.atHandler r x) : HostFrame s (finishWrite x) := by
  cases h <;> exact ⟨rfl, rfl, rfl, rfl, rfl, rfl⟩

theorem HostOutcome.frame {b : Byte} {s : State} {x : State × Bool} (h : HostOutcome b s x) : HostFrame s x.1 := by
  cases h with
  | request hs x hx => exact hx.frame
  | writeLast hs hd hr x hx => exact hx.frame
  | _ => exact ⟨rfl, rfl, rfl, rfl, rfl, rfl⟩

/-- The flag of the act says what the stages before and after say: an accepted STATUS read (R161, R164). -/
theorem HostOutcome.statusRead_iff {b : Byte} {s : State} {x : State × Bool} (h : HostOutcome b s x) :
    x.2 = true ↔ StatusReadAccepted s x.1 := by
  unfold StatusReadAccepted
  cases h with
  | request hs x hx => cases hx <;> simp [hs, enterData, State.atRequest]
  | _ hs => simp [hs]

end Sys2Proof.Machine
end

section
/-! PROOFS. The remote byte (R141 to R143, R220 to R224) as one function, and everything it can do. -/

namespace Sys2Proof.Machine

/-- The state in which the handler of a complete frame is called (R141): the codec in its header phase. -/
def State.atFrame (s : State) : State :=
  { s with fc := { acc := [], hdr := none }, out := Output.empty }

theorem frameStep_eq (act : State → State) (s : State) :
    frameStep act s = (act s.atFrame).updateAttn s.flags (act s.atFrame).flags false := rfl

/-- Everything the dispatch of a frame can do (R220 to R224). -/
inductive DispatchOutcome (f : Frame) (s : State) : State → Prop where
  | rejected (d : Diag) (hd : d.isCoordinationError = false) : DispatchOutcome f s (s.raise d)
  | config (hl : f.len ≠ 0) (hc : s.dc.connected = false) :
    DispatchOutcome f s ({ s with dc.connected := true }.raise (.configAccepted f.payload))
  | control (hf : f.chan = .control) (hmin : s.cfg.msgMin ≤ f.len.toNat) (hmax : f.len.toNat ≤ s.cfg.msgMax)
    (hm : decU32 f.payload 0 = s.cfg.magic) : DispatchOutcome f s { s with dc.msgq := s.dc.msgq ++ [f] }
  | audio : DispatchOutcome f s { s with dc.abuf := s.dc.abuf ++ f.payload }
  | acmConnected (hf : f.chan = .acm) (hl : f.len = 1) (hb : byteAt f.payload 0 = 0)
    (ha : s.dc.audio = .connecting) : DispatchOutcome f s (unblock { s with dc.audio := .connected })
  | acmFailed (hf : f.chan = .acm) (hl : f.len = 1) (hb : byteAt f.payload 0 ≠ 0)
    (ha : s.dc.audio = .connecting) :
    DispatchOutcome f s (unblock { s with dc.audio := .disconnected, dc.err := true })
  | acmEnded (hf : f.chan = .acm) (hl : f.len = 1) (hb : byteAt f.payload 0 ≠ 0)
    (ha : s.dc.audio = .connected) : DispatchOutcome f s { s with dc.audio := .disconnected, dc.err := true }

theorem dispatch_outcome (f : Frame) (s : State) : DispatchOutcome f s (dispatch f s) := by
  unfold dispatch
  cases hf : f.chan with
  | config =>
    rcases onConfig_cases f s with ⟨d, h, rfl | rfl⟩ | ⟨hl, hc, h⟩ <;> simp only [h]
    · exact .rejected _ rfl
    · exact .rejected _ rfl
    · exact .config hl hc
  | control =>
    rcases onControl_cases f s with ⟨d, h, rfl | rfl | rfl⟩ | ⟨-, hmin, hmax, hm, h⟩ <;> simp only [h]
    · exact .rejected _ rfl
    · exact .rejected _ rfl
    · exact .rejected _ rfl
    · exact .control hf hmin hmax hm
  | audio =>
    rcases onAudio_cases f s with ⟨-, h⟩ | ⟨-, -, h⟩ <;> simp only [h]
    · exact .rejected _ rfl
    · exact .audio
  | acm =>
    rcases onAcm_cases f s with ⟨d, h, rfl | ⟨st, code, rfl⟩⟩ | ⟨hl, hb, ha, h⟩ | ⟨hl, hb, ha, h⟩ | ⟨hl, hb, ha, h⟩ <;>
      simp only [h]
    · exact .rejected _ rfl
    · exact .rejected _ rfl
    · exact .acmConnected hf hl hb ha
    · exact .acmFailed hf hl hb ha
    · exact .acmEnded hf hl hb ha

/-- A remote byte, up to `UpdateAttn` (R141). -/
def remoteAct (b : Byte) (s : State) : State :=
  match (codecNext s.fc b).hdr with
  | none => { s with fc := codecNext s.fc b, out := Output.empty }
  | some h =>
    if (codecNext s.fc b).acc.length = h.len.toNat then
      frameAct s.cfg.codes h (codecNext s.fc b).acc s.atFrame
    else { s with fc := codecNext s.fc b, out := Output.empty }

/-- Everything a remote byte can do (R141, R143). -/
inductive RemoteOutcome (b : Byte) (s : State) : State → Prop where
  | collected (hn : ∀ h, (codecNext s.fc b).hdr = some h → (codecNext s.fc b).acc.length ≠ h.len.toNat) :
    RemoteOutcome b s { s with fc := codecNext s.fc b, out := Output.empty }
  | dropped (ch : Byte) : RemoteOutcome b s (s.atFrame.raise (.undefinedChannel ch))
  | dispatched (h : Header) (hh : (codecNext s.fc b).hdr = some h) (hlen : (codecNext s.fc b).acc.length = h.len.toNat)
    (ch : Channel) (hch : channelDecode s.cfg.codes h.chan = some ch) (t : State)
    (ht : DispatchOutcome (receivedFrame ch h.addr h.port (codecNext s.fc b).acc) s.atFrame t) :
    RemoteOutcome b s t

theorem remoteAct_outcome (b : Byte) (s : State) : RemoteOutcome b s (remoteAct b s) := by
  unfold remoteAct
  cases hh : (codecNext s.fc b).hdr with
  | none => exact .collected (by simp [hh])
  | some h =>
    by_cases hlen : (codecNext s.fc b).acc.length = h.len.toNat
    · simp only [if_pos hlen]
      rcases frameAct_cases s.cfg.codes h (codecNext s.fc b).acc with ⟨ch, hch, e⟩ | ⟨-, e⟩ <;> rw [e]
      · exact .dispatched h hh hlen ch hch _ (dispatch_outcome _ _)
      · exact .dropped h.chan
    · simp only [if_neg hlen]
      refine .collected ?_
      rw [hh]
      rintro h' ⟨⟩
      exact hlen

/-- REMOTE_BYTE is its act and then `UpdateAttn` on the status words before and after it (R141). -/
theorem execRemoteByte_eq (b : Byte) (s : State) :
    execRemoteByte b s = .next ((remoteAct b s).updateAttn s.flags (remoteAct b s).flags false) := by
  unfold remoteAct
  rcases execRemoteByte_cases b s with ⟨h, hn⟩ | ⟨hd, hh, hlen, h⟩ <;> rw [h]
  · cases hh : (codecNext s.fc b).hdr with
    | none => rfl
    | some hd => simp only [if_neg (hn hd hh)]; rfl
  · simp only [hh, if_pos hlen]; rfl

/-- What no remote byte touches (R141, R227). -/
structure RemoteFrame (s t : State) : Prop where
  cfg : t.cfg = s.cfg
  attn : t.attn = s.attn
  input : t.input = s.input
  block : t.dc.block = s.dc.block

theorem RemoteOutcome.frame {b : Byte} {s t : State} (h : RemoteOutcome b s t) : RemoteFrame s t := by
  cases h with
  | dispatched h hh hlen ch hch t ht =>
    cases ht with
    | acmConnected | acmFailed => exact ⟨unblock_cfg _, unblock_attn _, unblock_input _, by rw [unblock_dc]; rfl⟩
    | _ => exact ⟨rfl, rfl, rfl, rfl⟩
  | _ => exact ⟨rfl, rfl, rfl, rfl⟩

/-- A frame of one byte that a remote byte completes has come whole with it (R141, R224). -/
theorem awaitsAcmCode_of_frame {b : Byte} {s : State} {h : Header} {ch : Channel} (hh : (codecNext s.fc b).hdr = some h)
    (hlen : (codecNext s.fc b).acc.length = h.len.toNat) (hch : channelDecode s.cfg.codes h.chan = some ch)
    (hf : (receivedFrame ch h.addr h.port (codecNext s.fc b).acc).chan = .acm)
    (hl : (receivedFrame ch h.addr h.port (codecNext s.fc b).acc).len = 1) :
    AwaitsAcmCode s ∧ (codecNext s.fc b).acc = [b] := by
  have hl : BitVec.ofNat 32 (codecNext s.fc b).acc.length = 1#32 := hl
  rw [hlen, BitVec.ofNat_toNat, BitVec.setWidth_eq] at hl
  obtain ⟨hfc, hacc⟩ := codecNext_single hh (by rw [hlen, hl]; rfl)
  have hf : ch = .acm := hf
  exact ⟨⟨h, hfc, hl, by rw [hch, hf]⟩, hacc⟩

end Sys2Proof.Machine
end

section
/-! PROOFS. One inversion of the step (R8, R70), and the statements about the step and its status word. -/

namespace Sys2Proof.Machine

/-- Everything a step can do (R8, R70): idle, or the act of the first waiting event. -/
inductive StepOutcome (s : State) : State → Prop where
  | idle (hi : s.input = []) : StepOutcome s s.clearOut
  | host (b : Byte) (es : List Event) (hi : s.input = .hostByte b :: es) (x : State × Bool)
    (hx : HostOutcome b { s with input := es } x) : StepOutcome s (x.1.updateAttn s.flags x.1.flags x.2)
  | finish (es : List Event) (hi : s.input = .hostFinish :: es) : StepOutcome s { s with input := es }.clearOut
  | remote (b : Byte) (es : List Event) (hi : s.input = .remoteByte b :: es) (t : State)
    (ht : RemoteOutcome b { s with input := es } t) : StepOutcome s (t.updateAttn s.flags t.flags false)
  | reset (es : List Event) (hi : s.input = .reset :: es) : StepOutcome s (resetAll { s with input := es })

theorem step_outcome_exists (s : State) : ∃ t, step s = .next t ∧ StepOutcome s t := by
  rcases step_cases s with ⟨hi, h⟩ | ⟨b, es, hi, h⟩ | ⟨es, hi, h⟩ | ⟨b, es, hi, h⟩ | ⟨es, hi, h⟩ <;> rw [h]
  · exact ⟨_, rfl, .idle hi⟩
  · exact ⟨_, execHostByte_eq b _, .host b es hi _ (hostAct_outcome b _)⟩
  · exact ⟨_, rfl, .finish es hi⟩
  · exact ⟨_, execRemoteByte_eq b _, .remote b es hi _ (remoteAct_outcome b _)⟩
  · exact ⟨_, rfl, .reset es hi⟩

theorem step_outcome {s t : State} (h : step s = .next t) : StepOutcome s t := by
  obtain ⟨u, hu, ho⟩ := step_outcome_exists s
  rw [h] at hu
  cases hu
  exact ho

theorem step_event {s : State} {e : Event} {es : List Event} (h : s.input = e :: es) :
    step s = exec (eventInstr e) { s with input := es } := by
  simp only [step, h]

theorem step_idle {s : State} (h : s.input = []) : step s = .next s.clearOut := by
  simp only [step, h, idle]

/-- Settles O10: the idle step clears the outputs, any other is `exec` of its event. -/
theorem stepTakesTheNextEvent : Obligations.StepTakesTheNextEvent :=
  fun _ => ⟨step_idle, fun _ _ => step_event, fun _ => step_event, fun _ _ => step_event, fun _ => step_event⟩

/-- Settles O13: each event's act answers a state and touches neither the configuration nor the events to come. -/
theorem everyStepCompletes : Obligations.EveryStepCompletes := by
  intro s
  obtain ⟨t, h, ho⟩ := step_outcome_exists s
  refine ⟨t, h, ?_⟩
  cases ho with
  | idle hi => exact ⟨rfl, by rw [hi]; exact hi⟩
  | host b es hi x hx => exact ⟨hx.frame.cfg, hx.frame.input.trans (by rw [hi]; rfl)⟩
  | finish es hi => exact ⟨rfl, by rw [hi]; rfl⟩
  | remote b es hi t ht => exact ⟨ht.frame.cfg, ht.frame.input.trans (by rw [hi]; rfl)⟩
  | reset es hi => exact ⟨rfl, by rw [hi]; rfl⟩

/-- Settles O11: the byte completes the word, and the request the word decodes to is the step it names. -/
theorem stepRunsDecodedRequest : Obligations.StepRunsDecodedRequest := by
  intro s b es i r hi hs hdec
  obtain ⟨hlen, rfl, -⟩ := decodeRequest_eq_instr.mp hdec
  rw [step_event hi, exec_requestInstr]
  exact exec_hostByte_request (s := { s with input := es }) hs (by simpa using hlen) b

/-- Settles O38: HOST_FINISH clears the outputs and does nothing else. -/
theorem hostFinishDoesNothing : Obligations.HostFinishDoesNothing :=
  fun _ => rfl

theorem attnNext_clearOnRead (old new : U32) (a : Bool) :
    attnNext .clearOnRead old new false a = if old = 0 ∧ new ≠ 0 then true else a := rfl

/-- Settles O46: the level is `attnNext`, by the mode and, in `ClearOnRead`, by the read and the edge. -/
theorem updateAttnByMode : Obligations.UpdateAttnByMode := by
  intro s old new r
  refine ⟨attnNext s.cfg.attnMode old new r s.attn, rfl, fun hm => ?_, fun hm => ⟨?_, ?_, ?_⟩⟩ <;>
    rw [hm]
  · rw [attnNext_clearOnEmpty, decide_eq_true_iff]
  · rintro rfl
    exact attnNext_clearOnRead_read _ _ _
  · rintro rfl ho hn
    rw [attnNext_clearOnRead, if_pos ⟨ho, hn⟩]
  · rintro rfl hsame
    rw [attnNext_clearOnRead, if_neg (by tauto)]

/-! ### The status word (R240) -/

theorem getLsbD_flagBit (b : Bool) (pos : Nat) {k : Nat} (hk : k < 32) :
    (flagBit b pos).getLsbD k = (decide (k = pos) && b) := by
  cases b with
  | false => simp [flagBit]
  | true =>
    have : (decide (k < 32) && !decide (k < pos) && decide (k - pos = 0)) = decide (k = pos) := by
      rw [decide_eq_true hk, Bool.eq_iff_iff]
      simp
      omega
    simpa [flagBit, BitVec.getLsbD_shiftLeft, BitVec.getLsbD_one] using this

theorem hasQueuedMessage_eq (s : State) : s.hasQueuedMessage = decide (s.dc.msgq ≠ []) := by
  unfold State.hasQueuedMessage
  cases s.dc.msgq <;> rfl

/-- With the default bits the status word is a number of three binary digits (R41, R240). -/
theorem toNat_flags_standard {s : State} {m : Nat} (h : s.cfg.codes = Codes.standard m) :
    s.flags.toNat = s.dc.err.toNat + 2 * s.hasQueuedMessage.toNat + 4 * s.hasAudioBlockReady.toNat := by
  simp only [State.flags, h, Codes.standard]
  cases s.dc.err <;> cases s.hasQueuedMessage <;> cases s.hasAudioBlockReady <;> rfl

/-- Settles O15: bit by bit, and with the default bits digit by digit. -/
theorem statusWordBits : Obligations.StatusWordBits := by
  refine ⟨fun s k _ hk => ?_, fun s m h => ?_⟩
  · simp only [State.flags, BitVec.getLsbD_or, getLsbD_flagBit _ _ hk, hasQueuedMessage_eq, State.hasAudioBlockReady]
  · rw [toNat_flags_standard h, hasQueuedMessage_eq, State.hasAudioBlockReady]

end Sys2Proof.Machine
end

section
/-! PROOFS. The audio state is Connecting exactly while the engine is stalled (R174). -/

namespace Sys2Proof.Machine

/-- R174. -/
abbrev StallMatches (s : State) : Prop := s.te.stage = .stalled ↔ s.dc.audio = .connecting

theorem StallMatches.not_connecting {s : State} (h : StallMatches s) (hs : s.te.stage ≠ .stalled) :
    s.dc.audio ≠ .connecting :=
  mt h.mpr hs

theorem WriteOutcome.stallMatches {buf : List Byte} {s : State} {r : Reg} {x : Bool × State}
    (hx : WriteOutcome buf s.atHandler r x) (ha : s.dc.audio ≠ .connecting) : StallMatches (finishWrite x) := by
  cases hx with
  | disconnected | connecting => simp [StallMatches, finishWrite]
  | _ => simpa [StallMatches, finishWrite, State.atHandler] using ha

theorem RequestOutcome.stallMatches {s : State} {x : State × Bool} (hx : RequestOutcome s.atRequest x)
    (hs : s.te.stage = .awaitingRequest) (ha : s.dc.audio ≠ .connecting) : StallMatches x.1 := by
  cases hx <;> simpa [StallMatches, State.atRequest, hs] using ha

theorem HostOutcome.stallMatches {b : Byte} {s : State} {x : State × Bool} (hx : HostOutcome b s x)
    (h : StallMatches s) : StallMatches x.1 := by
  cases hx with
  | request hs x hx => exact hx.stallMatches hs (h.not_connecting (by simp [hs]))
  | readLast hs hd hr => simpa [StallMatches] using h.not_connecting (by simp [hs])
  | writeLast hs hd hr x hx => exact hx.stallMatches (h.not_connecting (by simp [hs]))
  | _ => exact h

theorem unblock_stalled_dc {s : State} (h : s.te.stage = .stalled) (dc : Coordinator) :
    unblock { s with dc := dc } = complete { s with dc := dc } :=
  unblock_of_stalled h

theorem unblock_not_stalled_dc {s : State} (h : s.te.stage ≠ .stalled) (dc : Coordinator) :
    unblock { s with dc := dc } = { s with dc := dc }.raise .unblockWhileNotStalled :=
  unblock_of_not_stalled h

theorem DispatchOutcome.stallMatches {f : Frame} {s t : State} (ht : DispatchOutcome f s t) (h : StallMatches s) :
    StallMatches t := by
  cases ht with
  | acmConnected hf hl hb ha | acmFailed hf hl hb ha =>
    rw [unblock_stalled_dc (h.mpr ha)]
    simp [StallMatches]
  | acmEnded hf hl hb ha =>
    have hs : s.te.stage ≠ .stalled := mt h.mp (by simp [ha])
    simp [StallMatches, hs]
  | _ => exact h

theorem RemoteOutcome.stallMatches {b : Byte} {s t : State} (ht : RemoteOutcome b s t) (h : StallMatches s) :
    StallMatches t := by
  cases ht with
  | dispatched h' hh hlen ch hch t ht => exact ht.stallMatches h
  | _ => exact h

theorem StepOutcome.stallMatches {s t : State} (ht : StepOutcome s t) (h : StallMatches s) : StallMatches t := by
  cases ht with
  | idle | finish => exact h
  | host b es hi x hx => exact hx.stallMatches h
  | remote b es hi t ht => exact ht.stallMatches h
  | reset => simp [StallMatches]

/-- Settles O50: only a connect request stalls, and only what leaves Connecting ends the stall. -/
theorem stalledExactlyWhileConnecting : Obligations.StalledExactlyWhileConnecting :=
  ⟨by decide, fun _ _ h hstep => (step_outcome hstep).stallMatches h⟩

end Sys2Proof.Machine
end

section
/-! PROOFS. The invariant of the device: its parts, each kept by every act (10_state.md, 42_transaction_engine.md). -/

namespace Sys2Proof.Machine

/-! ### The parts of the invariant -/

/-- The clauses of `DeviceInv` on the transaction engine and its line (R25 to R30). -/
structure EngineInv (cfg : Cfg) (te : Engine) (ack : Bool) : Prop where
  request : te.req.length < cfg.reqWidth.bytes
  requestIdle : te.stage ≠ .awaitingRequest → te.req = []
  pending : te.stage = .awaitingData → 1 ≤ te.remaining
  bufferIdle : te.stage ≠ .awaitingData → te.buf = []
  staged : te.stage = .awaitingData → te.dir = .read → te.buf.length = te.remaining
  received : te.stage = .awaitingData → te.dir = .write →
    writeCount cfg.codes te.reg = some (te.buf.length + te.remaining)
  stalledWrite : te.stage = .stalled → te.dir = .write
  ackLevel : ack = decide (te.stage ≠ .awaitingRequest)

/-- The clauses of `DeviceInv` on the coordinator alone (R34, R36). -/
structure CoordInv (cfg : Cfg) (dc : Coordinator) : Prop where
  blockPositive : 0 < dc.block.toNat
  blockAligned : dc.block.toNat % 4 = 0
  queue : ∀ f ∈ dc.msgq, QueuedOk cfg f

/-- All of `DeviceInv` but the attention level and R174. -/
structure CoreInv (s : State) : Prop where
  config : s.cfg.Wf
  codec : s.fc.Ok
  engine : EngineInv s.cfg s.te s.ack
  coord : CoordInv s.cfg s.dc

theorem deviceInv_iff (s : State) : DeviceInv s ↔ CoreInv s ∧ StallMatches s ∧ AttnLevel s := by
  constructor
  · rintro ⟨config, codec, request, requestIdle, pending, bufferIdle, staged, received, stalledWrite, ackLevel,
      stalledConnecting, blockPositive, blockAligned, queue, attnLevel⟩
    exact ⟨⟨config, codec, ⟨request, requestIdle, pending, bufferIdle, staged, received, stalledWrite, ackLevel⟩,
      ⟨blockPositive, blockAligned, queue⟩⟩, stalledConnecting, attnLevel⟩
  · rintro ⟨⟨config, codec, ⟨request, requestIdle, pending, bufferIdle, staged, received, stalledWrite, ackLevel⟩,
      ⟨blockPositive, blockAligned, queue⟩⟩, stalledConnecting, attnLevel⟩
    exact ⟨config, codec, request, requestIdle, pending, bufferIdle, staged, received, stalledWrite, ackLevel,
      stalledConnecting, blockPositive, blockAligned, queue, attnLevel⟩

theorem codes_wf {cfg : Cfg} (h : cfg.Wf) : cfg.codes.Wf cfg.reqWidth := by
  obtain ⟨-, -, -, -, -, -, -, hc, -⟩ := h
  exact hc

theorem reqWidth_bytes_pos (wd : ReqWidth) : 0 < wd.bytes := by
  cases wd <;> decide

/-- A writable register has at least one data byte (R173). -/
theorem writeCount_pos {cfg : Cfg} (h : cfg.Wf) {r : Reg} {n : Nat} (hn : writeCount cfg.codes r = some n) : 1 ≤ n := by
  obtain ⟨-, -, -, -, -, -, -, ⟨-, -, -, -, -, -, hsource, hblock, hmagic⟩, -⟩ := h
  cases r <;> cases hn <;> omega

theorem statusSize_pos {cfg : Cfg} (h : cfg.Wf) : 1 ≤ cfg.codes.statusSize := by
  obtain ⟨-, -, -, -, -, -, -, ⟨-, -, -, -, -, hstatus, -⟩, -⟩ := h
  omega

/-- A queued message has at least one byte (R34, R291). -/
theorem QueuedOk.payload_pos {cfg : Cfg} {f : Frame} (hw : cfg.Wf) (h : QueuedOk cfg f) : 1 ≤ f.payload.length := by
  obtain ⟨hmin, -⟩ := hw
  have := h.atLeast
  omega

/-! ### The engine in each stage -/

section Stages

variable {cfg : Cfg} {te : Engine} {ack : Bool}

theorem EngineInv.of_awaitingRequest (hs : te.stage = .awaitingRequest) (hreq : te.req.length < cfg.reqWidth.bytes)
    (hbuf : te.buf = []) (hack : ack = false) : EngineInv cfg te ack where
  request := hreq
  requestIdle h := absurd hs h
  pending h := by simp [hs] at h
  bufferIdle _ := hbuf
  staged h := by simp [hs] at h
  received h := by simp [hs] at h
  stalledWrite h := by simp [hs] at h
  ackLevel := by simp [hs, hack]

theorem EngineInv.of_read (hs : te.stage = .awaitingData) (hd : te.dir = .read) (hreq : te.req = [])
    (hpos : 1 ≤ te.remaining) (hlen : te.buf.length = te.remaining) (hack : ack = true) : EngineInv cfg te ack where
  request := by rw [hreq]; exact reqWidth_bytes_pos _
  requestIdle _ := hreq
  pending _ := hpos
  bufferIdle h := absurd hs h
  staged _ _ := hlen
  received _ h := by simp [hd] at h
  stalledWrite h := by simp [hs] at h
  ackLevel := by simp [hs, hack]

theorem EngineInv.of_write (hs : te.stage = .awaitingData) (hd : te.dir = .write) (hreq : te.req = [])
    (hpos : 1 ≤ te.remaining) (hn : writeCount cfg.codes te.reg = some (te.buf.length + te.remaining))
    (hack : ack = true) : EngineInv cfg te ack where
  request := by rw [hreq]; exact reqWidth_bytes_pos _
  requestIdle _ := hreq
  pending _ := hpos
  bufferIdle h := absurd hs h
  staged _ h := by simp [hd] at h
  received _ _ := hn
  stalledWrite h := by simp [hs] at h
  ackLevel := by simp [hs, hack]

theorem EngineInv.of_stalled (hs : te.stage = .stalled) (hd : te.dir = .write) (hreq : te.req = [])
    (hbuf : te.buf = []) (hack : ack = true) : EngineInv cfg te ack where
  request := by rw [hreq]; exact reqWidth_bytes_pos _
  requestIdle _ := hreq
  pending h := by simp [hs] at h
  bufferIdle _ := hbuf
  staged h := by simp [hs] at h
  received h := by simp [hs] at h
  stalledWrite _ := hd
  ackLevel := by simp [hs, hack]

theorem EngineInv.ack_of_busy (h : EngineInv cfg te ack) (hs : te.stage ≠ .awaitingRequest) : ack = true := by
  rw [h.ackLevel, decide_eq_true hs]

theorem EngineInv.ack_of_idle (h : EngineInv cfg te ack) (hs : te.stage = .awaitingRequest) : ack = false := by
  rw [h.ackLevel, hs]; rfl

end Stages

/-- A completed transaction leaves the engine idle, whatever was left of it (R168). -/
theorem CoreInv.complete {s : State} (hc : s.cfg.Wf) (hf : s.fc.Ok) (hd : CoordInv s.cfg s.dc) (hreq : s.te.req = []) :
    CoreInv (complete s) :=
  ⟨hc, hf, .of_awaitingRequest rfl (by simp [hreq, reqWidth_bytes_pos]) rfl rfl, hd⟩

/-! ### Host bytes keep the invariant -/

theorem CoreInv.atRequest {s : State} (h : CoreInv s) (hs : s.te.stage = .awaitingRequest) : CoreInv s.atRequest :=
  ⟨h.config, h.codec, .of_awaitingRequest hs (reqWidth_bytes_pos _) (h.engine.bufferIdle (by simp [hs]))
    (h.engine.ack_of_idle hs), h.coord⟩

theorem RequestOutcome.core {s : State} {x : State × Bool} (hx : RequestOutcome s x) (h : CoreInv s)
    (hreq : s.te.req = []) : CoreInv x.1 := by
  obtain ⟨hcfg, hfc, hte, hdc⟩ := h
  cases hx with
  | rejected d hd => exact ⟨hcfg, hfc, hte, hdc⟩
  | readStatus =>
    exact ⟨hcfg, hfc, .of_read rfl rfl hreq (statusSize_pos hcfg) (statusData_length _ _) rfl,
      ⟨hdc.blockPositive, hdc.blockAligned, hdc.queue⟩⟩
  | readMessage f rest hq =>
    have hf : QueuedOk s.cfg f := hdc.queue f (by simp [hq])
    exact ⟨hcfg, hfc, .of_read rfl rfl hreq (hf.payload_pos hcfg) (readMessage_length _ _) rfl,
      ⟨hdc.blockPositive, hdc.blockAligned, fun g hg => hdc.queue g (by rw [hq]; exact List.mem_cons_of_mem f hg)⟩⟩
  | readAudio hlen =>
    exact ⟨hcfg, hfc, .of_read rfl rfl hreq hdc.blockPositive (List.length_take_of_le hlen) rfl,
      ⟨hdc.blockPositive, hdc.blockAligned, hdc.queue⟩⟩
  | write r n hn =>
    exact ⟨hcfg, hfc, .of_write rfl rfl hreq (writeCount_pos hcfg hn) (by simpa using hn) rfl, hdc⟩

/-- A block size that R199 accepts is a positive multiple of 4 (R36). -/
theorem CoordInv.setBlock {cfg : Cfg} {dc : Coordinator} (h : CoordInv cfg dc) {v n : U32} (hv : v ≠ 0)
    (hn : n.toNat = roundup4 v.toNat) : CoordInv cfg { dc with block := n } := by
  refine ⟨?_, hn ▸ roundup4_mod v.toNat, h.queue⟩
  have hpos : v.toNat ≠ 0 := fun h0 => hv (BitVec.eq_of_toNat_eq h0)
  have hle := le_roundup4 v.toNat
  show 0 < n.toNat
  omega

theorem WriteOutcome.core {buf : List Byte} {s : State} {r : Reg} {x : Bool × State}
    (hx : WriteOutcome buf s.atHandler r x) (h : CoreInv s) (hs : s.te.stage = .awaitingData)
    (hd : s.te.dir = .write) : CoreInv (finishWrite x) := by
  have hreq : s.te.req = [] := h.engine.requestIdle (by simp [hs])
  have hack : s.ack = true := h.engine.ack_of_busy (by simp [hs])
  obtain ⟨hcfg, hfc, -, hdc⟩ := h
  cases hx with
  | disconnected => exact CoreInv.complete hcfg hfc ⟨hdc.blockPositive, hdc.blockAligned, hdc.queue⟩ hreq
  | connecting =>
    exact ⟨hcfg, hfc, .of_stalled rfl hd hreq rfl hack, ⟨hdc.blockPositive, hdc.blockAligned, hdc.queue⟩⟩
  | block n hv hn => exact CoreInv.complete hcfg hfc (hdc.setBlock hv hn) hreq
  | blockRounded n hv hn => exact CoreInv.complete hcfg hfc (hdc.setBlock hv hn) hreq
  | _ => exact CoreInv.complete hcfg hfc hdc hreq

theorem HostOutcome.core {b : Byte} {s : State} {x : State × Bool} (hx : HostOutcome b s x) (h : CoreInv s) :
    CoreInv x.1 := by
  have hreq : s.te.stage = .awaitingData → s.te.req = [] := fun hs => h.engine.requestIdle (by simp [hs])
  have hack : s.te.stage = .awaitingData → s.ack = true := fun hs => h.engine.ack_of_busy (by simp [hs])
  cases hx with
  | partialWord hs hlen =>
    exact ⟨h.config, h.codec, .of_awaitingRequest hs (by simpa using hlen) (h.engine.bufferIdle (by simp [hs]))
      (h.engine.ack_of_idle hs), h.coord⟩
  | request hs x hx => exact hx.core (h.atRequest hs) rfl
  | readMore hs hd hr =>
    have hlen := h.engine.staged hs hd
    exact ⟨h.config, h.codec,
      .of_read hs hd (hreq hs) (Nat.le_sub_one_of_lt hr) (by rw [List.length_tail, hlen]) (hack hs), h.coord⟩
  | readLast hs hd hr => exact CoreInv.complete h.config h.codec h.coord (hreq hs)
  | writeMore hs hd hr =>
    have hn := h.engine.received hs hd
    have hsum : (s.te.buf ++ [b]).length + (s.te.remaining - 1) = s.te.buf.length + s.te.remaining := by
      simp; omega
    exact ⟨h.config, h.codec, .of_write hs hd (hreq hs) (Nat.le_sub_one_of_lt hr) (by rw [hsum]; exact hn) (hack hs),
      h.coord⟩
  | writeLast hs hd hr x hx => exact hx.core h hs hd
  | stalled hs => exact ⟨h.config, h.codec, h.engine, h.coord⟩

/-! ### Remote bytes keep the invariant -/

/-- A byte that completes no frame keeps the bound on the accumulator (R22, R141). -/
theorem codecNext_ok {fc : FrameCodec} (h : fc.Ok) {b : Byte}
    (hn : ∀ hd, (codecNext fc b).hdr = some hd → (codecNext fc b).acc.length ≠ hd.len.toNat) : (codecNext fc b).Ok := by
  rcases codecNext_cases fc b with ⟨-, -, e⟩ | ⟨hmore, e⟩ <;> rw [e] at hn ⊢
  · have := hn _ rfl
    simp only [FrameCodec.Ok, List.length_nil] at this ⊢
    omega
  · cases hh : fc.hdr with
    | none =>
      simp only [FrameCodec.Ok, hh, List.length_append, List.length_singleton] at h ⊢
      have : fc.acc.length ≠ 10 := fun h10 => hmore ⟨hh, h10⟩
      omega
    | some hd =>
      have := hn hd hh
      simp only [FrameCodec.Ok, hh, List.length_append, List.length_singleton] at h this ⊢
      omega

theorem DispatchOutcome.core {f : Frame} {s t : State} (ht : DispatchOutcome f s t) (h : CoreInv s)
    (hst : StallMatches s) (hf : f.Wf) : CoreInv t := by
  have hreq : s.te.stage = .stalled → s.te.req = [] := fun hs => h.engine.requestIdle (by simp [hs])
  obtain ⟨hcfg, hfc, hte, hdc⟩ := h
  cases ht with
  | control hchan hmin hmax hm =>
    refine ⟨hcfg, hfc, hte, hdc.blockPositive, hdc.blockAligned, fun g hg => ?_⟩
    rcases List.mem_append.mp hg with hg | hg
    · exact hdc.queue g hg
    · rw [List.mem_singleton.mp hg]
      exact ⟨hchan, hf, hf.symm ▸ hmin, hf.symm ▸ hmax, hm⟩
  | acmConnected hchan hl hb ha | acmFailed hchan hl hb ha =>
    rw [unblock_stalled_dc (hst.mpr ha)]
    exact CoreInv.complete hcfg hfc ⟨hdc.blockPositive, hdc.blockAligned, hdc.queue⟩ (hreq (hst.mpr ha))
  | _ => exact ⟨hcfg, hfc, hte, ⟨hdc.blockPositive, hdc.blockAligned, hdc.queue⟩⟩

/-- The frame handed to dispatch has the length its header declares (R47, R141). -/
theorem receivedFrame_wf (ch : Channel) (addr : U32) (port : U16) {p : List Byte} (hp : p.length < 2 ^ 32) :
    (receivedFrame ch addr port p).Wf :=
  (Nat.mod_eq_of_lt hp).symm

theorem RemoteOutcome.core {b : Byte} {s t : State} (ht : RemoteOutcome b s t) (h : CoreInv s)
    (hst : StallMatches s) : CoreInv t := by
  obtain ⟨hcfg, hfc, hte, hdc⟩ := h
  cases ht with
  | collected hn => exact ⟨hcfg, codecNext_ok hfc hn, hte, hdc⟩
  | dropped ch => exact ⟨hcfg, Nat.zero_le 10, hte, hdc⟩
  | dispatched hd hh hlen ch hch t ht =>
    exact ht.core ⟨hcfg, Nat.zero_le 10, hte, hdc⟩ hst (receivedFrame_wf _ _ _ (hlen ▸ hd.len.isLt))

/-! ### The step -/

/-- RESET gives the invariant in every state of a constructed configuration (R290). -/
theorem deviceInv_resetAll {s : State} (h : s.cfg.Wf) : DeviceInv (resetAll s) := by
  have hblock : 0 < s.cfg.defaultBlock.toNat ∧ s.cfg.defaultBlock.toNat % 4 = 0 := by
    obtain ⟨-, -, -, -, -, hpos, halign, -⟩ := h
    exact ⟨hpos, halign⟩
  refine (deviceInv_iff _).mpr ⟨⟨h, Nat.zero_le 10, ?_, ⟨hblock.1, hblock.2, by simp⟩⟩, by simp [StallMatches], ?_⟩
  · exact .of_awaitingRequest rfl (reqWidth_bytes_pos _) rfl rfl
  · have hblock0 : s.cfg.defaultBlock.toNat ≠ 0 := Nat.ne_of_gt hblock.1
    simp [AttnLevel, State.anyFlag, State.hasQueuedMessage, State.hasAudioBlockReady, hblock0]

/-- `UpdateAttn` on the status word of the state it ends in completes the invariant (R242, R243). -/
theorem CoreInv.updateAttn {s : State} (h : CoreInv s) (hst : StallMatches s) (old : U32) (r : Bool) :
    DeviceInv (s.updateAttn old s.flags r) :=
  (deviceInv_iff _).mpr
    ⟨⟨h.config, h.codec, h.engine, h.coord⟩, hst, updateAttn_level old r (codes_wf h.config)⟩

theorem StepOutcome.deviceInv {s t : State} (ht : StepOutcome s t) (h : DeviceInv s) : DeviceInv t := by
  obtain ⟨hcore, hst, hattn⟩ := (deviceInv_iff s).mp h
  have hinput : ∀ es, CoreInv { s with input := es } := fun _ => ⟨hcore.config, hcore.codec, hcore.engine, hcore.coord⟩
  cases ht with
  | idle | finish =>
    exact (deviceInv_iff _).mpr ⟨⟨hcore.config, hcore.codec, hcore.engine, hcore.coord⟩, hst, hattn⟩
  | host b es hi x hx => exact (hx.core (hinput es)).updateAttn (hx.stallMatches hst) _ _
  | remote b es hi t ht => exact (ht.core (hinput es) hst).updateAttn (ht.stallMatches hst) _ _
  | reset es hi => exact deviceInv_resetAll hcore.config

/-- Settles O49: each act keeps every clause but the attention level, which `UpdateAttn` gives at the end. -/
theorem stepKeepsInv : Obligations.StepKeepsInv :=
  fun _ _ h hstep => (step_outcome hstep).deviceInv h

/-- Settles O47: `State.reset` is what RESET leaves of itself. -/
theorem resetHasInv : Obligations.ResetHasInv :=
  deviceInv_resetAll (s := State.reset) (by decide)

end Sys2Proof.Machine
end

section
/-! PROOFS. Construction (R291, R292). -/

namespace Sys2Proof.Machine

/-- The parameters from which `Construct` builds a device (R291). -/
structure ValidParams (p : Params) : Prop where
  hostEndpoint : p.hostEndpoint = true
  frameEndpoint : p.frameEndpoint = true
  port : p.remotePort ≤ 65535
  addr : p.remoteAddr < 2 ^ 32
  minPositive : 4 ≤ p.msgMin
  minAligned : p.msgMin % 4 = 0
  maxPositive : 4 ≤ p.msgMax
  maxAligned : p.msgMax % 4 = 0
  ordered : p.msgMin ≤ p.msgMax
  blockPositive : 0 < p.defaultBlock.toNat
  blockAligned : p.defaultBlock.toNat % 4 = 0

/-- The configuration of the device built from `p` (R6, R291). -/
def builtCfg (p : Params) : Cfg where
  remoteAddr := BitVec.ofNat 32 p.remoteAddr
  remotePort := BitVec.ofNat 16 p.remotePort
  magic := p.magic
  msgMin := p.msgMin
  msgMax := p.msgMax
  defaultBlock := p.defaultBlock
  link := p.link
  reqWidth := p.reqWidth
  attnMode := p.attnMode
  codes := { p.codes with msgWriteLen := writeLen p }

theorem constructCfg_of_valid {p : Params} (hv : ValidParams p) : constructCfg p = .ok (builtCfg p) := by
  obtain ⟨hhost, hframe, hport, haddr, hmin, hmin4, hmax, hmax4, hord, hblk, hblk4⟩ := hv
  have hblk0 : p.defaultBlock ≠ 0 := fun h0 => by simp [h0] at hblk
  unfold constructCfg
  rw [if_neg (by simp [hhost, hframe]), if_neg (by omega), if_neg (by omega), if_neg (by omega), if_neg (by omega),
    if_neg (by omega), if_neg (by tauto)]
  rfl

theorem constructCfg_of_not_valid {p : Params} (hn : ¬ValidParams p) : ∃ e, constructCfg p = .fail e := by
  unfold constructCfg
  split_ifs with hend hport haddr hmin hmax hord hblk
  any_goals exact ⟨_, rfl⟩
  refine absurd ?_ hn
  simp only [not_or, Bool.not_eq_false, ne_eq, not_not] at hend hmin hmax hblk
  obtain ⟨hhost, hframe⟩ := hend
  obtain ⟨hmin, hmin4⟩ := hmin
  obtain ⟨hmax, hmax4⟩ := hmax
  obtain ⟨hblk, hblk4⟩ := hblk
  have hpos : p.defaultBlock.toNat ≠ 0 := fun h0 => hblk (BitVec.eq_of_toNat_eq h0)
  exact ⟨hhost, hframe, by omega, by omega, by omega, hmin4, by omega, hmax4, by omega, by omega, hblk4⟩

theorem exec_construct_of_ok {p : Params} {cfg : Cfg} (h : constructCfg p = .ok cfg) (s : State) :
    exec (.construct p) s = .next (resetAll { s with cfg := cfg }) := by
  show execConstruct p s = _
  simp only [execConstruct, h]

theorem exec_construct_of_fail {p : Params} {e : ConfigError} (h : constructCfg p = .fail e) (s : State) :
    exec (.construct p) s = .fault (.constructionFailed e) := by
  show execConstruct p s = _
  simp only [execConstruct, h]

/-- Settles O40: the device is the built configuration in the state RESET leaves. -/
theorem constructValidates : Obligations.ConstructValidates := by
  refine fun s p => ⟨fun hhost hframe hport haddr hmin hmin4 hmax hmax4 hord hblk hblk4 => ?_, fun hbad => ?_⟩
  · have h := constructCfg_of_valid ⟨hhost, hframe, hport, haddr, hmin, hmin4, hmax, hmax4, hord, hblk, hblk4⟩
    refine ⟨_, exec_construct_of_ok h s, rfl, rfl, ?_, ?_, rfl, rfl, rfl, rfl, rfl, rfl, rfl, rfl, fun hin => ?_,
      fun hout => ?_⟩
    · exact Nat.mod_eq_of_lt haddr
    · exact Nat.mod_eq_of_lt (by omega)
    · exact if_pos hin
    · exact if_neg (by omega)
  · have hn : ¬ValidParams p := by
      rintro ⟨hhost, hframe, hport, haddr, hmin, hmin4, hmax, hmax4, hord, hblk, hblk4⟩
      have hblk0 : p.defaultBlock ≠ 0 := fun h0 => by simp [h0] at hblk
      simp only [hhost, hframe, hblk0, Bool.true_eq_false, false_or] at hbad
      omega
    obtain ⟨e, h⟩ := constructCfg_of_not_valid hn
    exact ⟨e, exec_construct_of_fail h s⟩

/-- The number of data bytes of a MESSAGE write lies within the bounds, and leaves room for the magic field (R196). -/
theorem writeLen_bounds {p : Params} (hv : ValidParams p) (hm : p.codes.msgMagicOffset + 4 ≤ p.codes.msgWriteLen)
    (hmax : p.codes.msgMagicOffset + 4 ≤ p.msgMax) :
    p.codes.msgMagicOffset + 4 ≤ writeLen p ∧ p.msgMin ≤ writeLen p ∧ writeLen p ≤ p.msgMax := by
  have hord := hv.ordered
  unfold writeLen
  split_ifs <;> omega

/-- Settles O48: the configuration built is a constructed one, and RESET gives the rest. -/
theorem constructedDeviceHasInv : Obligations.ConstructedDeviceHasInv := by
  intro s t p hc hmagic hexec
  by_cases hv : ValidParams p
  · rw [exec_construct_of_ok (constructCfg_of_valid hv)] at hexec
    cases hexec
    obtain ⟨hch, hadr, hlim, hfl, hfl32, hst, hsrc, hblk, hwl⟩ := hc
    obtain ⟨hroom, hlo, hhi⟩ := writeLen_bounds hv hwl hmagic
    exact deviceInv_resetAll ⟨hv.minPositive, hv.minAligned, hv.maxPositive, hv.maxAligned, hv.ordered,
      hv.blockPositive, hv.blockAligned, ⟨hch, hadr, hlim, hfl, hfl32, hst, hsrc, hblk, hroom⟩, hlo, hhi⟩
  · obtain ⟨e, h⟩ := constructCfg_of_not_valid hv
    rw [exec_construct_of_fail h] at hexec
    cases hexec

end Sys2Proof.Machine
end

section
/-! PROOFS. Rules of the whole machine: latches, transitions, outputs, and what host and remote bytes leave alone. -/

namespace Sys2Proof.Machine

/-! ### The latches (R31 to R33) -/

/-- A frame that declares a payload brings one (R47, R141). -/
theorem payload_ne_nil_of_len {ch : Channel} {addr : U32} {port : U16} {p : List Byte}
    (h : (receivedFrame ch addr port p).len ≠ 0) : p ≠ [] := by
  rintro rfl
  exact h rfl

/-- The connection latch is never cleared by a frame, and set by an accepted Config frame alone (R221). -/
theorem RemoteOutcome.connected {b : Byte} {s t : State} (ht : RemoteOutcome b s t) :
    (s.dc.connected = true → t.dc.connected = true) ∧
    (s.dc.connected = false → t.dc.connected = true → ∃ p, p ≠ [] ∧ t.out.diag = [.configAccepted p]) := by
  have hsame : t.dc.connected = s.dc.connected → (s.dc.connected = true → t.dc.connected = true) ∧
      (s.dc.connected = false → t.dc.connected = true → ∃ p, p ≠ [] ∧ t.out.diag = [.configAccepted p]) := by
    intro h
    rw [h]
    exact ⟨id, fun h0 h1 => by simp [h0] at h1⟩
  cases ht with
  | dispatched h hh hlen ch hch t ht =>
    cases ht with
    | config hl hc => exact ⟨fun _ => rfl, fun _ _ => ⟨_, payload_ne_nil_of_len hl, rfl⟩⟩
    | acmConnected | acmFailed => exact hsame (by rw [unblock_dc]; rfl)
    | _ => exact hsame rfl
  | _ => exact hsame rfl

/-- Settles O51: no host byte touches the latch, and a frame only sets it. -/
theorem connectedLatch : Obligations.ConnectedLatch := by
  intro s t hstep
  have hkept : t.dc.connected = s.dc.connected →
      (s.dc.connected = true → s.input.head? ≠ some .reset → t.dc.connected = true) ∧
      (s.dc.connected = false → t.dc.connected = true →
        ∃ b es p, s.input = .remoteByte b :: es ∧ p ≠ [] ∧ t.out.diag = [.configAccepted p]) := by
    intro h
    rw [h]
    exact ⟨fun h1 _ => h1, fun h0 h1 => by simp [h0] at h1⟩
  cases step_outcome hstep with
  | idle | finish => exact hkept rfl
  | host b es hi x hx => exact hkept hx.frame.connected
  | remote b es hi t ht =>
    obtain ⟨hstay, hset⟩ := ht.connected
    refine ⟨fun h1 _ => hstay h1, fun h0 h1 => ?_⟩
    obtain ⟨p, hp, hdiag⟩ := hset h0 h1
    exact ⟨b, es, p, hi, hp, hdiag⟩
  | reset es hi => exact ⟨fun _ hne => absurd (by rw [hi]; rfl) hne, fun _ h1 => by simp at h1⟩

/-- A host byte never sets the error latch, and clears it by an accepted STATUS read alone (R191). -/
theorem HostOutcome.err {b : Byte} {s : State} {x : State × Bool} (hx : HostOutcome b s x) :
    x.1.dc.err = s.dc.err ∨ x.1.dc.err = false ∧ StatusReadAccepted s x.1 := by
  cases hx with
  | request hs x hx =>
    cases hx with
    | readStatus => exact .inr ⟨rfl, hs, rfl, rfl, rfl⟩
    | _ => exact .inl rfl
  | writeLast hs hd hr x hx =>
    generalize s.te.reg = r at hx
    cases hx <;> exact .inl rfl
  | _ => exact .inl rfl

/-- A remote byte never clears the error latch, and sets it by a non-zero ACM code alone (R224). -/
theorem RemoteOutcome.err {b : Byte} {s t : State} (ht : RemoteOutcome b s t) :
    t.dc.err = s.dc.err ∨
    t.dc.err = true ∧ AwaitsAcmCode s ∧ b ≠ 0 ∧ s.dc.audio ≠ .disconnected ∧ t.dc.audio = .disconnected := by
  cases ht with
  | dispatched h hh hlen ch hch t ht =>
    cases ht with
    | acmConnected => exact .inl (by rw [unblock_dc]; rfl)
    | acmFailed hf hl hb ha =>
      obtain ⟨hawait, hacc⟩ := awaitsAcmCode_of_frame hh hlen hch hf hl
      rw [unblock_dc]
      exact .inr ⟨rfl, hawait, by simpa [receivedFrame, hacc] using hb, ne_of_eq_of_ne ha (by decide), rfl⟩
    | acmEnded hf hl hb ha =>
      obtain ⟨hawait, hacc⟩ := awaitsAcmCode_of_frame hh hlen hch hf hl
      exact .inr ⟨rfl, hawait, by simpa [receivedFrame, hacc] using hb, ne_of_eq_of_ne ha (by decide), rfl⟩
    | _ => exact .inl rfl
  | _ => exact .inl rfl

/-- Settles O52: set by remote bytes alone, cleared by host bytes and RESET alone. -/
theorem errorLatch : Obligations.ErrorLatch := by
  intro s t hstep
  cases step_outcome hstep with
  | idle | finish => exact ⟨fun h0 h1 => by simp [h0] at h1, fun h1 h0 => by simp [h1] at h0⟩
  | host b es hi x hx =>
    rcases hx.err with hsame | ⟨hfalse, hread⟩
    · have hsame : x.1.dc.err = s.dc.err := hsame
      exact ⟨fun h0 h1 => by simp [hsame, h0] at h1, fun h1 h0 => by simp [hsame, h1] at h0⟩
    · exact ⟨fun _ h1 => by simp [hfalse] at h1, fun _ _ => .inr ⟨⟨b, es, hi⟩, hread⟩⟩
  | remote b es hi t ht =>
    rcases ht.err with hsame | ⟨htrue, hawait, hb, ha, ha'⟩
    · have hsame : t.dc.err = s.dc.err := hsame
      exact ⟨fun h0 h1 => by simp [hsame, h0] at h1, fun h1 h0 => by simp [hsame, h1] at h0⟩
    · exact ⟨fun _ _ => ⟨b, es, hi, hawait, hb, ha, ha'⟩, fun _ h0 => by simp [htrue] at h0⟩
  | reset es hi => exact ⟨fun _ h1 => by simp at h1, fun _ _ => .inl ⟨es, hi⟩⟩

/-! ### Transitions of the audio state (R225) -/

/-- The transitions a host byte makes: the last byte of an AUDIO_SOURCE write, by its source (R197). -/
theorem HostOutcome.audio {b : Byte} {s : State} {x : State × Bool} (hx : HostOutcome b s x) (h : StallMatches s)
    (hne : x.1.dc.audio ≠ s.dc.audio) :
    s.te.stage = .awaitingData ∧ s.te.dir = .write ∧ s.te.reg = .audioSource ∧ s.te.remaining ≤ 1 ∧
    x.1.dc.abuf = [] ∧ x.1.dc.err = s.dc.err ∧
    x.1.out.tx = encU32 6 ++ encU32 s.cfg.remoteAddr ++ encU16 s.cfg.remotePort ++ [s.cfg.codes.chAcm] ++
      encU32 (decU32 (s.te.buf ++ [b]) 0) ++ encU16 (decU16 (s.te.buf ++ [b]) 4) ∧
    (¬(decU32 (s.te.buf ++ [b]) 0 = 0 ∧ decU16 (s.te.buf ++ [b]) 4 = 0) ∧ s.dc.audio ≠ .connecting ∧
      x.1.dc.audio = .connecting ∧ x.1.te.stage = .stalled ∨
     (decU32 (s.te.buf ++ [b]) 0 = 0 ∧ decU16 (s.te.buf ++ [b]) 4 = 0) ∧ s.dc.audio = .connected ∧
      x.1.dc.audio = .disconnected ∧ x.1.te.stage = .awaitingRequest) := by
  cases hx with
  | request hs x hx => cases hx <;> exact absurd rfl hne
  | writeLast hs hd hr x hx =>
    have hnc : s.dc.audio ≠ .connecting := h.not_connecting (by simp [hs])
    generalize hreg : s.te.reg = r at hx
    cases hx with
    | disconnected hz ha =>
      have hconn : s.dc.audio = .connected := by
        have ha : s.dc.audio ≠ .disconnected := ha
        cases hau : s.dc.audio <;> simp_all
      exact ⟨hs, hd, rfl, hr, rfl, rfl, wire_acm s.cfg _, .inr ⟨hz, hconn, rfl, rfl⟩⟩
    | connecting hz => exact ⟨hs, hd, rfl, hr, rfl, rfl, wire_acm s.cfg _, .inl ⟨hz, hnc, rfl, rfl⟩⟩
    | _ => exact absurd rfl hne
  | _ => exact absurd rfl hne

/-- The transitions a remote byte makes: the status code of an ACM frame (R224). -/
theorem RemoteOutcome.audio {b : Byte} {s t : State} (ht : RemoteOutcome b s t) (h : StallMatches s)
    (hne : t.dc.audio ≠ s.dc.audio) :
    AwaitsAcmCode s ∧ t.dc.abuf = s.dc.abuf ∧
    (b = 0 ∧ s.dc.audio = .connecting ∧ t.dc.audio = .connected ∧ t.dc.err = s.dc.err ∧
      t.te.stage = .awaitingRequest ∨
     b ≠ 0 ∧ s.dc.audio = .connecting ∧ t.dc.audio = .disconnected ∧ t.dc.err = true ∧
      t.te.stage = .awaitingRequest ∨
     b ≠ 0 ∧ s.dc.audio = .connected ∧ t.dc.audio = .disconnected ∧ t.dc.err = true ∧ t.te = s.te) := by
  cases ht with
  | dispatched hd hh hlen ch hch t ht =>
    cases ht with
    | acmConnected hf hl hb ha =>
      obtain ⟨hawait, hacc⟩ := awaitsAcmCode_of_frame hh hlen hch hf hl
      rw [unblock_stalled_dc (s := s.atFrame) (h.mpr ha)]
      exact ⟨hawait, rfl, .inl ⟨by simpa [receivedFrame, hacc] using hb, ha, rfl, rfl, rfl⟩⟩
    | acmFailed hf hl hb ha =>
      obtain ⟨hawait, hacc⟩ := awaitsAcmCode_of_frame hh hlen hch hf hl
      rw [unblock_stalled_dc (s := s.atFrame) (h.mpr ha)]
      exact ⟨hawait, rfl, .inr (.inl ⟨by simpa [receivedFrame, hacc] using hb, ha, rfl, rfl, rfl⟩)⟩
    | acmEnded hf hl hb ha =>
      obtain ⟨hawait, hacc⟩ := awaitsAcmCode_of_frame hh hlen hch hf hl
      exact ⟨hawait, rfl, .inr (.inr ⟨by simpa [receivedFrame, hacc] using hb, ha, rfl, rfl, rfl⟩)⟩
    | _ => exact absurd rfl hne
  | _ => exact absurd rfl hne

/-- Settles O53: the rows of the transition table, by the event. -/
theorem audioTransitionsComplete : Obligations.AudioTransitionsComplete := by
  intro s t h hstep hne
  cases step_outcome hstep with
  | idle | finish => exact absurd rfl hne
  | host b es hi x hx =>
    obtain ⟨hs, hd, hreg, hr, habuf, herr, htx, hrow⟩ := hx.audio h hne
    exact .inr (.inl ⟨b, es, _, _, hi, hs, hd, hreg, hr, rfl, rfl, habuf, herr, htx, hrow⟩)
  | remote b es hi t ht =>
    obtain ⟨hawait, habuf, hrow⟩ := ht.audio h hne
    exact .inr (.inr ⟨b, es, hi, hawait, habuf, hrow⟩)
  | reset es hi => exact .inl ⟨es, hi, rfl⟩

/-! ### Outputs -/

/-- Bytes leave with the last byte of a MESSAGE write while connected or of an AUDIO_SOURCE write alone (R196, R197). -/
theorem HostOutcome.tx {b : Byte} {s : State} {x : State × Bool} (hx : HostOutcome b s x) (htx : x.1.out.tx ≠ []) :
    s.te.stage = .awaitingData ∧ s.te.dir = .write ∧ s.te.remaining ≤ 1 ∧
      (s.te.reg = .message ∧ s.dc.connected = true ∨ s.te.reg = .audioSource) := by
  cases hx with
  | request hs x hx => cases hx <;> exact absurd rfl htx
  | writeLast hs hd hr x hx =>
    refine ⟨hs, hd, hr, ?_⟩
    generalize s.te.reg = r at hx
    cases hx with
    | messageSent hc l => exact .inl ⟨rfl, hc⟩
    | disconnected | connecting => exact .inr rfl
    | _ => exact absurd rfl htx
  | _ => exact absurd rfl htx

/-- Settles O55: the act of every host byte has a reply, and `UpdateAttn` leaves the outputs alone. -/
theorem hostByteRepliesAndSendsLast : Obligations.HostByteRepliesAndSendsLast := by
  intro s b
  have hx := hostAct_outcome b s
  obtain ⟨r, hr⟩ := Option.isSome_iff_exists.mp hx.frame.reply
  exact ⟨_, r, execHostByte_eq b s, hr, hx.tx⟩

/-- None of the diagnostics is a coordination error (R263). -/
def NoCoordinationError (s : State) : Prop := ∀ d ∈ s.out.diag, d.isCoordinationError = false

theorem noCoordinationError_of_nil {s : State} (h : s.out.diag = []) : NoCoordinationError s := by
  simp [NoCoordinationError, h]

theorem noCoordinationError_of_one {s : State} {d : Diag} (h : s.out.diag = [d]) (hd : d.isCoordinationError = false) :
    NoCoordinationError s := by
  simpa [NoCoordinationError, h] using hd

/-- A register in the data phase of a write is a writable one, so no handler is missing (R165, R202). -/
theorem HostOutcome.noCoordinationError {b : Byte} {s : State} {x : State × Bool} (hx : HostOutcome b s x)
    (h : EngineInv s.cfg s.te s.ack) : NoCoordinationError x.1 := by
  cases hx with
  | request hs x hx =>
    cases hx with
    | rejected d hd => exact noCoordinationError_of_one rfl hd
    | _ => exact noCoordinationError_of_nil rfl
  | writeLast hs hd hr x hx =>
    have hn := h.received hs hd
    generalize s.te.reg = r at hx hn
    cases hx with
    | readOnly _ hnone => exact absurd (hnone.symm.trans hn) (by simp)
    | badBlock | blockRounded => exact noCoordinationError_of_one rfl rfl
    | _ => exact noCoordinationError_of_nil rfl
  | stalled hs => exact noCoordinationError_of_one rfl rfl
  | _ => exact noCoordinationError_of_nil rfl

/-- A code that ends Connecting finds the engine stalled (R174). -/
theorem RemoteOutcome.noCoordinationError {b : Byte} {s t : State} (ht : RemoteOutcome b s t) (h : StallMatches s) :
    NoCoordinationError t := by
  cases ht with
  | dropped ch => exact noCoordinationError_of_one rfl rfl
  | dispatched hd hh hlen ch hch t ht =>
    cases ht with
    | rejected d hd => exact noCoordinationError_of_one rfl hd
    | config => exact noCoordinationError_of_one rfl rfl
    | acmConnected hf hl hb ha | acmFailed hf hl hb ha =>
      rw [unblock_stalled_dc (s := s.atFrame) (h.mpr ha)]
      exact noCoordinationError_of_nil rfl
    | _ => exact noCoordinationError_of_nil rfl
  | collected => exact noCoordinationError_of_nil rfl

/-- Settles O59: the engine's clauses rule out a missing handler, R174 an `UNBLOCK` with nothing stalled. -/
theorem coordinationErrorsUnreachable : Obligations.CoordinationErrorsUnreachable := by
  intro s t hinv hstep
  obtain ⟨hcore, hst, -⟩ := (deviceInv_iff s).mp hinv
  cases step_outcome hstep with
  | idle | finish | reset => exact noCoordinationError_of_nil rfl
  | host b es hi x hx => exact hx.noCoordinationError hcore.engine
  | remote b es hi t ht => exact ht.noCoordinationError hst

/-! ### What remote bytes leave alone -/

/-- A remote byte leaves the engine and `ack` alone, or completes a stalled transaction (R169, R226). -/
theorem RemoteOutcome.engine {b : Byte} {s t : State} (ht : RemoteOutcome b s t) :
    (t.te = s.te ∧ t.ack = s.ack) ∨
    (s.te.stage = .stalled ∧ t.te.stage = .awaitingRequest ∧ t.ack = false) := by
  cases ht with
  | dispatched h hh hlen ch hch t ht =>
    cases ht with
    | acmConnected | acmFailed =>
      by_cases hs : s.te.stage = .stalled
      · rw [unblock_stalled_dc (s := s.atFrame) hs]
        exact .inr ⟨hs, rfl, rfl⟩
      · rw [unblock_not_stalled_dc (s := s.atFrame) hs]
        exact .inl ⟨rfl, rfl⟩
    | _ => exact .inl ⟨rfl, rfl⟩
  | _ => exact .inl ⟨rfl, rfl⟩

/-- Settles O57: `UpdateAttn` touches neither, so the act decides. -/
theorem remoteBytesLeaveTransactionsAlone : Obligations.RemoteBytesLeaveTransactionsAlone := by
  intro s t b hexec
  rw [exec_remoteByte, execRemoteByte_eq] at hexec
  cases hexec
  have ht := remoteAct_outcome b s
  refine ⟨fun hs => ?_, fun _ => ?_, ht.frame.block⟩
  · rcases ht.engine with hsame | ⟨hst, -⟩
    · exact hsame
    · exact absurd hst hs
  · exact ht.engine.imp id fun ⟨_, hdone⟩ => hdone

/-! ### The attention line (R242 to R244) -/

/-- Settles O60: both acts keep the line and the configuration, and `UpdateAttn` moves the line by the mode. -/
theorem attentionLineFollowsTheMode : Obligations.AttentionLineFollowsTheMode := by
  intro s t b hw hexec
  have hhost := hostAct_outcome b s
  have hremote := remoteAct_outcome b s
  have hkeeps : ∀ u : State, u.cfg = s.cfg → u.attn = s.attn → s.cfg.attnMode = .clearOnRead →
      (u.updateAttn s.flags u.flags false).attn = (s.attn || (!s.anyFlag && u.anyFlag)) := by
    intro u hc ha hm
    rw [updateAttn_eq_attnAfter hc ha hw]
    simp only [State.attnAfter, hm]
  have hlevel : ∀ (u : State) (r : Bool), u.cfg = s.cfg → s.cfg.attnMode = .clearOnEmpty →
      (u.updateAttn s.flags u.flags r).attn = u.anyFlag := by
    intro u r hc hm
    exact updateAttn_level s.flags r (by rw [hc]; exact hw) (by rw [← hm, ← hc]; rfl)
  refine ⟨fun hm => ?_, fun hm hexec hread => ?_, fun hm hread => ?_⟩
  · rcases hexec with h | h
    · rw [exec_hostByte, execHostByte_eq] at h
      cases h
      exact hlevel _ _ hhost.frame.cfg hm
    · rw [exec_remoteByte, execRemoteByte_eq] at h
      cases h
      exact hlevel _ _ hremote.frame.cfg hm
  · rw [exec_hostByte, execHostByte_eq] at hexec
    cases hexec
    rw [hhost.statusRead_iff.mpr hread, State.updateAttn_attn, hhost.frame.cfg, hm]
    exact attnNext_clearOnRead_read _ _ _
  · rcases hexec with h | h
    · rw [exec_hostByte, execHostByte_eq] at h
      cases h
      rw [Bool.eq_false_iff.mpr (mt hhost.statusRead_iff.mp hread)]
      exact hkeeps _ hhost.frame.cfg hhost.frame.attn hm
    · rw [exec_remoteByte, execRemoteByte_eq] at h
      cases h
      exact hkeeps _ hremote.frame.cfg hremote.frame.attn hm

end Sys2Proof.Machine
end

section
/-! PROOFS. Requests (R163 to R165, R190 to R195): the next state of each, exactly. -/

namespace Sys2Proof.Machine

/-! ### The end of a request -/

/-- A request that accepts no STATUS read ends with the line after the flags of the new state. -/
theorem requestStep_of {act : State → State × Bool} {s x : State} (hw : s.cfg.codes.Wf s.cfg.reqWidth)
    (h : act s.atRequest = (x, false)) (hc : x.cfg = s.cfg) (ha : x.attn = s.attn) :
    requestStep act s = { x with attn := s.attnAfter x.anyFlag } := by
  rw [requestStep_eq, h]
  exact updateAttn_eq_attnAfter hc ha hw

/-- A request that leaves the coordinator alone leaves the line alone. -/
theorem requestStep_same {act : State → State × Bool} {s x : State} (hw : s.cfg.codes.Wf s.cfg.reqWidth)
    (hl : AttnLevel s) (h : act s.atRequest = (x, false)) (hc : x.cfg = s.cfg) (hd : x.dc = s.dc)
    (ha : x.attn = s.attn) : requestStep act s = x := by
  rw [requestStep_eq, h, State.flags_congr hc hd]
  exact updateAttn_same hc hd ha hw hl

/-! ### What each acceptance answers -/

theorem acceptRead_status (s : State) :
    acceptRead .status s =
      (enterData .status .read (statusData s.cfg.codes.statusSize s.flags) s.cfg.codes.statusSize
        { s with dc.err := false }, true) := by
  simp only [acceptRead, regRead, statusRead, statusData_length, decide_true]

theorem acceptRead_message {s : State} {f : Frame} {rest : List Frame} (h : s.dc.msgq = f :: rest) :
    acceptRead .message s =
      (enterData .message .read (readMessage s.cfg.codes f) f.payload.length { s with dc.msgq := rest }, false) := by
  simp only [acceptRead, regRead, messageRead, h, readMessage_length, reduceCtorEq, decide_false]

theorem acceptRead_message_empty {s : State} (h : s.dc.msgq = []) :
    acceptRead .message s = (s.raise (.nothingAvailable .message), false) := by
  simp only [acceptRead, regRead, messageRead, h]

theorem acceptRead_audioData {s : State} {blk rest : List Byte} (h : s.dc.abuf = blk ++ rest)
    (hlen : blk.length = s.dc.block.toNat) :
    acceptRead .audioData s =
      (enterData .audioData .read blk s.dc.block.toNat { s with dc.abuf := rest }, false) := by
  have hle : ¬(blk ++ rest).length < blk.length := by simp
  simp only [acceptRead, regRead, audioDataRead, h, if_neg hle, ← hlen, List.take_left', List.drop_left',
    reduceCtorEq, decide_false]

theorem acceptRead_audioData_short {s : State} (h : s.dc.abuf.length < s.dc.block.toNat) :
    acceptRead .audioData s = (s.raise (.nothingAvailable .audioData), false) := by
  simp only [acceptRead, regRead, audioDataRead, if_pos h]

theorem statusData_four (w : U32) : statusData 4 w = encU32 w := by
  simp [statusData]

/-! ### The obligations -/

/-- Settles O14: the snapshot is taken of the state before the latch is cleared. -/
theorem rdStatusSnapshotsAndClearsError : Obligations.RdStatusSnapshotsAndClearsError := by
  intro wd s hw hsize
  have hact : requestStep (acceptRead .status) s =
      (enterData .status .read (encU32 s.flags) 4 { s.atRequest with dc.err := false }).updateAttn s.flags
        (enterData .status .read (encU32 s.flags) 4 { s.atRequest with dc.err := false }).flags true := by
    rw [requestStep_eq, acceptRead_status, show s.atRequest.cfg.codes.statusSize = 4 from hsize, statusData_four]
    rfl
  exact congrArg Host.Outcome.next (hact.trans (updateAttn_statusRead s.flags (s := s) rfl hw))

/-- Settles O16: the two hypotheses on `p` are the two cases of the embedded address. -/
theorem rdMessagePopsTheFront : Obligations.RdMessagePopsTheFront := by
  intro wd s f rest p hw hq hroom hnoroom
  have hp : readMessage s.cfg.codes f = p := by
    unfold readMessage
    split_ifs with h
    · exact (hroom h).symm
    · exact (hnoroom (by omega)).symm
  refine ⟨by rw [← hp, readMessage_length], ?_⟩
  show Host.Outcome.next (requestStep (acceptRead .message) s) = _
  rw [requestStep_of hw (acceptRead_message (s := s.atRequest) hq) rfl rfl, show s.atRequest.cfg = s.cfg from rfl, hp]
  rfl

/-- Settles O17: the block is the front of the buffer, the rest stays. -/
theorem rdAudioDataDrainsOneBlock : Obligations.RdAudioDataDrainsOneBlock := by
  intro wd s blk rest hw habuf hlen
  show Host.Outcome.next (requestStep (acceptRead .audioData) s) = _
  rw [requestStep_of hw (acceptRead_audioData (s := s.atRequest) habuf hlen) rfl rfl]
  rfl

/-- A request that only raises a violation (R163 to R165). -/
theorem requestStep_raise {act : State → State × Bool} {s : State} {d : Diag} (hw : s.cfg.codes.Wf s.cfg.reqWidth)
    (hl : AttnLevel s) (h : act s.atRequest = (s.atRequest.raise d, false)) :
    requestStep act s = { s with te.req := [], out := Output.host s.cfg.codes.filler [] [d] } :=
  requestStep_same hw hl h rfl rfl rfl

/-- Settles O18: the operation raises its address, and the word names the operation. -/
theorem undefinedAddressRejected : Obligations.UndefinedAddressRejected := by
  refine fun s hw hl => ⟨fun wd dir a => ?_, fun b hs hlen hundef => ?_⟩
  · exact congrArg Host.Outcome.next (requestStep_raise (act := rejectUndefined a) hw hl rfl)
  · rw [exec_hostByte_request hs hlen.ge, addressDecode_eq_none_iff.mpr hundef]
    exact congrArg Host.Outcome.next (requestStep_raise (act := rejectUndefined _) hw hl rfl)

/-- Settles O19: each acceptance evaluates to its violation. -/
theorem illegalDirectionRejected : Obligations.IllegalDirectionRejected :=
  fun _ _ hw hl =>
    ⟨congrArg Host.Outcome.next (requestStep_raise (act := acceptWrite .status) hw hl rfl),
      congrArg Host.Outcome.next (requestStep_raise (act := acceptWrite .audioData) hw hl rfl),
      congrArg Host.Outcome.next (requestStep_raise (act := acceptRead .audioSource) hw hl rfl),
      congrArg Host.Outcome.next (requestStep_raise (act := acceptRead .audioBlockSize) hw hl rfl)⟩

/-- Settles O20: the empty queue and the short buffer are the unavailable reads. -/
theorem nothingAvailableAborts : Obligations.NothingAvailableAborts :=
  fun _ s hw hl =>
    ⟨fun h => congrArg Host.Outcome.next
        (requestStep_raise (act := acceptRead .message) hw hl (acceptRead_message_empty (s := s.atRequest) h)),
      fun h => congrArg Host.Outcome.next
        (requestStep_raise (act := acceptRead .audioData) hw hl (acceptRead_audioData_short (s := s.atRequest) h))⟩

/-- Settles O21: none of the three touches the coordinator. -/
theorem writeRequestsAccepted : Obligations.WriteRequestsAccepted :=
  fun _ _ hw hl =>
    ⟨congrArg Host.Outcome.next (requestStep_same (act := acceptWrite .message) hw hl rfl rfl rfl rfl),
      congrArg Host.Outcome.next (requestStep_same (act := acceptWrite .audioSource) hw hl rfl rfl rfl rfl),
      congrArg Host.Outcome.next (requestStep_same (act := acceptWrite .audioBlockSize) hw hl rfl rfl rfl rfl)⟩

end Sys2Proof.Machine
end

section
/-! PROOFS. Host bytes of a transaction (R162, R166, R167, R196 to R199): the next state of each, exactly. -/

namespace Sys2Proof.Machine

/-! ### The end of a host byte -/

theorem exec_hostByte_of {b : Byte} {s x : State} {flag : Bool} (hw : s.cfg.codes.Wf s.cfg.reqWidth)
    (h : hostAct b s = (x, false)) (hflag : x.anyFlag = flag) :
    exec (.hostByte b) s = .next { x with attn := s.attnAfter flag } := by
  have hframe := (hostAct_outcome b s).frame
  rw [h] at hframe
  rw [exec_hostByte, execHostByte_eq, h, ← hflag]
  exact congrArg Host.Outcome.next (updateAttn_eq_attnAfter hframe.cfg hframe.attn hw)

/-- A host byte that leaves the coordinator alone leaves the line alone. -/
theorem exec_hostByte_same {b : Byte} {s x : State} (hw : s.cfg.codes.Wf s.cfg.reqWidth) (hl : AttnLevel s)
    (h : hostAct b s = (x, false)) (hd : x.dc = s.dc) : exec (.hostByte b) s = .next x := by
  have hframe := (hostAct_outcome b s).frame
  rw [h] at hframe
  rw [exec_hostByte_of hw h (State.anyFlag_congr hd), State.attnAfter_same hl, ← hframe.attn]

theorem hostAct_data {s : State} (hs : s.te.stage = .awaitingData) (b : Byte) : hostAct b s = (dataAct b s, false) := by
  simp only [hostAct, hs]

theorem hostAct_stalled {s : State} (hs : s.te.stage = .stalled) (b : Byte) :
    hostAct b s = ({ s with out := Output.host s.cfg.codes.filler [] [.byteWhileStalled b] }, false) := by
  unfold hostAct
  rw [hs]

theorem hostAct_partial {s : State} (hs : s.te.stage = .awaitingRequest)
    (hlen : s.te.req.length + 1 < s.cfg.reqWidth.bytes) (b : Byte) :
    hostAct b s = ({ s with te.req := s.te.req ++ [b], out := Output.host s.cfg.codes.filler [] [] }, false) := by
  unfold hostAct
  rw [hs]
  exact if_pos hlen

theorem hostAct_complete {s : State} (hs : s.te.stage = .awaitingRequest)
    (hlen : s.cfg.reqWidth.bytes ≤ s.te.req.length + 1) (b : Byte) :
    hostAct b s = requestAct (requestDir (requestWord s.cfg.reqWidth (s.te.req ++ [b])))
      (requestAddr (requestWord s.cfg.reqWidth (s.te.req ++ [b])))
      (addressDecode s.cfg.codes (requestAddr (requestWord s.cfg.reqWidth (s.te.req ++ [b])))) s.atRequest := by
  unfold hostAct
  rw [hs]
  exact if_neg (Nat.not_lt.mpr hlen)

/-- Settles O26: the act changes the outputs alone. -/
theorem stalledByteRejected : Obligations.StalledByteRejected :=
  fun _ b hw hl hs => exec_hostByte_same hw hl (hostAct_stalled hs b) rfl

/-- Settles O27: the act extends `te.req` alone. -/
theorem partialRequestAccumulates : Obligations.PartialRequestAccumulates :=
  fun _ b hw hl hs hlen => exec_hostByte_same hw hl (hostAct_partial hs hlen b) rfl

theorem exec_hostByte_data {s : State} (hw : s.cfg.codes.Wf s.cfg.reqWidth) (hl : AttnLevel s)
    (hs : s.te.stage = .awaitingData) {b : Byte} {x : State} (h : dataAct b s = x) (hd : x.dc = s.dc) :
    exec (.hostByte b) s = .next x :=
  exec_hostByte_same hw hl (by rw [hostAct_data hs, h]) hd

/-- Settles O25: by the direction and by whether one byte remains. -/
theorem dataBytesMoveTheBuffer : Obligations.DataBytesMoveTheBuffer := by
  refine fun s b hw hl hs => ⟨fun x xs k hd hbuf hr => ?_, fun x xs hd hbuf hr => ?_, fun k hd hr => ?_⟩
  · refine exec_hostByte_data hw hl hs ?_ rfl
    rw [dataAct_read_more hd (by omega), hbuf, hr]
    rfl
  · refine exec_hostByte_data hw hl hs ?_ rfl
    rw [dataAct_read_last hd (by omega), hbuf]
    rfl
  · refine exec_hostByte_data hw hl hs ?_ rfl
    rw [dataAct_write_more hd (by omega), hr]
    rfl

/-! ### The last byte of a write -/

theorem hostAct_write_last {s : State} (hs : s.te.stage = .awaitingData) (hd : s.te.dir = .write)
    (hr : s.te.remaining = 1) (b : Byte) :
    hostAct b s = (finishWrite (regWrite s.te.reg (s.te.buf ++ [b]) s.atHandler), false) := by
  rw [hostAct_data hs, dataAct_write_last hd hr.le]

/-- A message leaves as a Control frame to the configured remote (R95, R196). -/
theorem wire_control (cfg : Cfg) {p : List Byte} (h : p.length < 2 ^ 32) :
    wire cfg.codes (makeFrame cfg .control p) =
      encU32 (BitVec.ofNat 32 p.length) ++ encU32 cfg.remoteAddr ++ encU16 cfg.remotePort ++
        [cfg.codes.chControl] ++ p := by
  rw [wire_eq_fields, ← frameLen_of_lt h]
  rfl

theorem messageWrite_of_connected {s : State} (h : s.dc.connected = true) (buf : List Byte) :
    messageWrite buf s =
      (true, send (makeFrame s.cfg .control (replaceField buf s.cfg.codes.msgMagicOffset s.cfg.magic)) s) :=
  if_pos h

theorem messageWrite_of_not_connected {s : State} (h : s.dc.connected = false) (buf : List Byte) :
    messageWrite buf s = (true, s) :=
  if_neg (by simp [h])

/-- Settles O22: `MessageWrite` on the whole buffer, by the latch. -/
theorem messageWriteSendsControlFrame : Obligations.MessageWriteSendsControlFrame := by
  intro s b buf p hw hl hs hd hreg hr hbuf hroom hlt hp
  have hp' : p = replaceField buf s.cfg.codes.msgMagicOffset s.cfg.magic := hp
  have hlen : p.length = buf.length := by rw [hp', replaceField_length hroom]
  have hact := hostAct_write_last hs hd hr b
  rw [hreg, ← hbuf] at hact
  refine ⟨fun hc => ?_, fun hc => ?_, hlen, fun hinv => ?_⟩
  · rw [regWrite, messageWrite_of_not_connected (s := s.atHandler) hc] at hact
    exact exec_hostByte_same hw hl hact rfl
  · rw [regWrite, messageWrite_of_connected (s := s.atHandler) hc] at hact
    rw [exec_hostByte_same hw hl hact rfl, ← hlen, ← wire_control s.cfg (hlen ▸ hlt), hp']
    rfl
  · have hn := hinv.received hs hd
    simp only [hreg, writeCount, hr, Option.some.injEq] at hn
    have hcount : buf.length = s.cfg.codes.msgWriteLen := by rw [hbuf, hn]; simp
    obtain ⟨-, -, -, -, -, -, -, -, hlo, hhi⟩ := hinv.config
    exact ⟨hcount, hcount ▸ hlo, hcount ▸ hhi⟩

/-- With the audio buffer cleared no block is ready, and the flags are those of the latch and the queue (R38). -/
theorem anyFlag_of_abuf_nil {s : State} (h : s.dc.abuf = []) (hblock : 0 < s.dc.block.toNat) :
    s.anyFlag = (s.dc.err || s.hasQueuedMessage) := by
  simp [State.anyFlag, State.hasAudioBlockReady, h, Nat.ne_of_gt hblock]

/-- Settles O23: `AudioSourceWrite` on the whole buffer, by the source and the audio state. -/
theorem audioSourceWriteConnectsOrDisconnects : Obligations.AudioSourceWriteConnectsOrDisconnects := by
  rintro s b buf addr port hw hl hblock hs hd hreg hr hbuf rfl rfl
  have hact := hostAct_write_last hs hd hr b
  rw [hreg, ← hbuf] at hact
  have hwire : wire s.cfg.codes (makeFrame s.cfg .acm (encodeSource (decodeSource buf))) =
      encU32 6 ++ encU32 s.cfg.remoteAddr ++ encU16 s.cfg.remotePort ++ [s.cfg.codes.chAcm] ++
        encU32 (decU32 buf 0) ++ encU16 (decU16 buf 4) := wire_acm s.cfg (decodeSource buf)
  have hcase := audioSourceWrite_cases buf s.atHandler
  refine ⟨fun hz ha => ?_, fun hz ha => ?_, fun hz => ?_⟩
  · rcases hcase with ⟨-, -, h⟩ | ⟨-, hna, -⟩ | ⟨hnz, -⟩
    · rw [regWrite, h] at hact
      exact exec_hostByte_same hw hl hact rfl
    · exact absurd ha hna
    · exact absurd hz hnz
  · rcases hcase with ⟨-, hda, -⟩ | ⟨-, -, h⟩ | ⟨hnz, -⟩
    · exact absurd hda ha
    · rw [regWrite, h] at hact
      rw [hz.1, hz.2] at hwire
      rw [← hwire]
      exact exec_hostByte_of hw hact (anyFlag_of_abuf_nil rfl hblock)
    · exact absurd hz hnz
  · rcases hcase with ⟨hz', -⟩ | ⟨hz', -⟩ | ⟨-, h⟩
    · exact absurd hz' hz
    · exact absurd hz' hz
    · rw [regWrite, h] at hact
      rw [← hwire]
      exact exec_hostByte_of hw hact (anyFlag_of_abuf_nil rfl hblock)

/-! ### The block size -/

theorem blockSizeWrite_bad {buf : List Byte} (h : decU32 buf 0 = 0 ∨ 0xFFFFFFFC < (decU32 buf 0).toNat) (s : State) :
    blockSizeWrite buf s = (true, s.raise (.badBlockSize (decU32 buf 0))) := if_pos h

/-- An accepted size is stored rounded, with the warning exactly when rounding changed it (R199). -/
theorem blockSizeWrite_ok {buf : List Byte} {n : U32} (h0 : decU32 buf 0 ≠ 0)
    (hle : (decU32 buf 0).toNat ≤ 0xFFFFFFFC) (hn : n.toNat = roundup4 (decU32 buf 0).toNat) (s : State) :
    blockSizeWrite buf s = (true, { s with
      dc.block := n
      out.diag := s.out.diag ++ if n = decU32 buf 0 then [] else [.blockSizeRounded (decU32 buf 0) n] }) := by
  have hok : ¬(decU32 buf 0 = 0 ∨ 0xFFFFFFFC < (decU32 buf 0).toNat) := by
    rintro (h | h)
    · exact h0 h
    · omega
  have hround : BitVec.ofNat 32 (roundup4 (decU32 buf 0).toNat) = n := by
    rw [← hn, BitVec.ofNat_toNat, BitVec.setWidth_eq]
  have hwarn : (if n = decU32 buf 0 then s else s.raise (.blockSizeRounded (decU32 buf 0) n)) =
      { s with out.diag := s.out.diag ++ if n = decU32 buf 0 then [] else [.blockSizeRounded (decU32 buf 0) n] } := by
    split_ifs
    · rw [List.append_nil]
    · rfl
  simp only [blockSizeWrite, if_neg hok, hround, hwarn]
  by_cases hcur : n = s.dc.block
  · rw [if_pos hcur, hcur]
  · rw [if_neg hcur]

/-- Settles O24: `AudioBlockSizeWrite` on the whole buffer. -/
theorem blockSizeWriteRoundsUp : Obligations.BlockSizeWriteRoundsUp := by
  rintro s b v n hw hl hs hd hreg hr rfl
  have hact := hostAct_write_last hs hd hr b
  rw [hreg, regWrite] at hact
  refine ⟨fun hbad => ?_, fun h0 hle hn => ?_⟩
  · rw [blockSizeWrite_bad hbad] at hact
    exact exec_hostByte_same hw hl hact rfl
  · rw [blockSizeWrite_ok h0 hle (by rw [hn, roundup4_eq])] at hact
    exact exec_hostByte_of hw hact rfl

end Sys2Proof.Machine
end

section
/-! PROOFS. The frame handlers (R220 to R224): the answer of each, test by test. -/

namespace Sys2Proof.Machine

/-! ### The handlers -/

section Handlers

variable {f : Frame} {s : State}

theorem onConfig_empty (hl : f.len = 0) : onConfig f s = s.raise .emptyConfig := if_pos hl

theorem onConfig_repeated (hl : f.len ≠ 0) (hc : s.dc.connected = true) : onConfig f s = s.raise .repeatedConfig :=
  (if_neg hl).trans (if_pos hc)

theorem onConfig_accepted (hl : f.len ≠ 0) (hc : s.dc.connected = false) :
    onConfig f s = { s with dc.connected := true }.raise (.configAccepted f.payload) :=
  (if_neg hl).trans (if_neg (by simp [hc]))

theorem onControl_not_connected (hc : s.dc.connected = false) : onControl f s = s.raise .controlWhileNotConnected :=
  if_pos hc

theorem onControl_bad_length (hc : s.dc.connected = true)
    (hl : f.len.toNat < s.cfg.msgMin ∨ s.cfg.msgMax < f.len.toNat) :
    onControl f s = s.raise (.badMessageLength f.len) :=
  (if_neg (by simp [hc])).trans (if_pos hl)

theorem onControl_bad_magic (hc : s.dc.connected = true)
    (hl : ¬(f.len.toNat < s.cfg.msgMin ∨ s.cfg.msgMax < f.len.toNat)) (hm : decU32 f.payload 0 ≠ s.cfg.magic) :
    onControl f s = s.raise .badMagic :=
  ((if_neg (by simp [hc])).trans (if_neg hl)).trans (if_pos hm)

theorem onControl_accepted (hc : s.dc.connected = true)
    (hl : ¬(f.len.toNat < s.cfg.msgMin ∨ s.cfg.msgMax < f.len.toNat)) (hm : decU32 f.payload 0 = s.cfg.magic) :
    onControl f s = { s with dc.msgq := s.dc.msgq ++ [f] } :=
  ((if_neg (by simp [hc])).trans (if_neg hl)).trans (if_neg (not_not_intro hm))

theorem onAudio_rejected (h : s.dc.connected = false ∨ s.dc.audio ≠ .connected) :
    onAudio f s = s.raise .audioWhileNotConnected := if_pos h

theorem onAudio_accepted (hc : s.dc.connected = true) (ha : s.dc.audio = .connected) :
    onAudio f s = { s with dc.abuf := s.dc.abuf ++ f.payload } :=
  if_neg (by simp [hc, ha])

theorem onAcm_bad_length (hl : f.len ≠ 1) : onAcm f s = s.raise (.badAcmLength f.len) := if_pos hl

theorem onAcm_connecting_zero (hl : f.len = 1) (ha : s.dc.audio = .connecting) (hb : byteAt f.payload 0 = 0) :
    onAcm f s = unblock { s with dc.audio := .connected } := by
  simp only [onAcm, if_neg (not_not_intro hl), ha, if_pos hb]

theorem onAcm_connecting_error (hl : f.len = 1) (ha : s.dc.audio = .connecting) (hb : byteAt f.payload 0 ≠ 0) :
    onAcm f s = unblock { s with dc.audio := .disconnected, dc.err := true } := by
  simp only [onAcm, if_neg (not_not_intro hl), ha, if_neg hb]

/-- A code ends Connecting through `UNBLOCK`, 0 in Connected, any other in Disconnected with the error latch. -/
theorem onAcm_connecting (hl : f.len = 1) (ha : s.dc.audio = .connecting) :
    onAcm f s = unblock { s with
      dc.audio := if byteAt f.payload 0 = 0 then .connected else .disconnected
      dc.err := s.dc.err || decide (byteAt f.payload 0 ≠ 0) } := by
  by_cases hb : byteAt f.payload 0 = 0
  · rw [onAcm_connecting_zero hl ha hb, if_pos hb, decide_eq_false (not_not_intro hb), Bool.or_false]
  · rw [onAcm_connecting_error hl ha hb, if_neg hb, decide_eq_true (show byteAt f.payload 0 ≠ 0 from hb),
      Bool.or_true]

theorem onAcm_connected_zero (hl : f.len = 1) (ha : s.dc.audio = .connected) (hb : byteAt f.payload 0 = 0) :
    onAcm f s = s.raise (.unexpectedAcm .connected (byteAt f.payload 0)) := by
  simp only [onAcm, if_neg (not_not_intro hl), ha, if_pos hb]

theorem onAcm_connected_error (hl : f.len = 1) (ha : s.dc.audio = .connected) (hb : byteAt f.payload 0 ≠ 0) :
    onAcm f s = { s with dc.audio := .disconnected, dc.err := true } := by
  simp only [onAcm, if_neg (not_not_intro hl), ha, if_neg hb]

theorem onAcm_disconnected (hl : f.len = 1) (ha : s.dc.audio = .disconnected) :
    onAcm f s = s.raise (.unexpectedAcm .disconnected (byteAt f.payload 0)) := by
  simp only [onAcm, if_neg (not_not_intro hl), ha]

theorem dispatch_config (hf : f.chan = .config) : dispatch f s = onConfig f s := by
  simp only [dispatch, hf]

theorem dispatch_control (hf : f.chan = .control) : dispatch f s = onControl f s := by
  simp only [dispatch, hf]

theorem dispatch_audio (hf : f.chan = .audio) : dispatch f s = onAudio f s := by
  simp only [dispatch, hf]

theorem dispatch_acm (hf : f.chan = .acm) : dispatch f s = onAcm f s := by
  simp only [dispatch, hf]

end Handlers

/-! ### The declared length of a well-formed frame (R47) -/

section Length

variable {f : Frame} (hf : f.Wf)
include hf

theorem len_eq_zero_iff : f.len = 0 ↔ f.payload = [] := by
  rw [← List.length_eq_zero_iff, hf]
  exact ⟨fun h => by rw [h]; rfl, fun h => BitVec.eq_of_toNat_eq h⟩

theorem len_eq_one_iff : f.len = 1 ↔ f.payload.length = 1 := by
  rw [hf]
  exact ⟨fun h => by rw [h]; rfl, fun h => BitVec.eq_of_toNat_eq h⟩

end Length

theorem exec_dispatch (f : Frame) (s : State) : exec (.dispatch f) s = .next (dispatch f s) := rfl

/-- Settles O43: each clause is one outcome of one handler. -/
theorem dispatchByChannel : Obligations.DispatchByChannel := by
  intro s f hf
  have hzero := len_eq_zero_iff hf
  have hone := len_eq_one_iff hf
  have hlen : f.len.toNat = f.payload.length := hf.symm
  have hinside : s.cfg.msgMin ≤ f.payload.length → f.payload.length ≤ s.cfg.msgMax →
      ¬(f.len.toNat < s.cfg.msgMin ∨ s.cfg.msgMax < f.len.toNat) := by omega
  simp only [exec_dispatch]
  refine ⟨fun hch hp hc => ?_, fun hch hp => ?_, fun hch hp hc => ?_, fun hch hc hlo hhi hm => ?_, fun hch hc => ?_,
    fun hch hc hl => ?_, fun hch hc hlo hhi hm => ?_, fun hch hc ha => ?_, fun hch h => ?_, fun hch hl => ?_,
    fun hch code hp => ?_⟩
  · rw [dispatch_config hch, onConfig_accepted (mt hzero.mp hp) hc]; rfl
  · rw [dispatch_config hch, onConfig_empty (hzero.mpr hp)]; rfl
  · rw [dispatch_config hch, onConfig_repeated (mt hzero.mp hp) hc]; rfl
  · rw [dispatch_control hch, onControl_accepted hc (hinside hlo hhi) hm]
  · rw [dispatch_control hch, onControl_not_connected hc]; rfl
  · rw [dispatch_control hch, onControl_bad_length hc (hlen ▸ hl)]; rfl
  · rw [dispatch_control hch, onControl_bad_magic hc (hinside hlo hhi) hm]; rfl
  · rw [dispatch_audio hch, onAudio_accepted hc ha]
  · rw [dispatch_audio hch, onAudio_rejected h]; rfl
  · rw [dispatch_acm hch, onAcm_bad_length (mt hone.mp hl)]; rfl
  · have hl : f.len = 1 := hone.mpr (by rw [hp]; rfl)
    have hb : byteAt f.payload 0 = code := by rw [hp]; rfl
    rw [dispatch_acm hch]
    refine ⟨fun ha hs => ?_, fun ha hs => ?_, fun ha hc => ?_, fun ha hc => ?_, fun ha => ?_⟩
    · rw [onAcm_connecting hl ha, unblock_stalled_dc hs, hb]; rfl
    · rw [onAcm_connecting hl ha, unblock_not_stalled_dc hs, hb]; rfl
    · rw [onAcm_connected_error hl ha (hb ▸ hc)]
    · rw [onAcm_connected_zero hl ha (hb.trans hc), hb]; rfl
    · rw [onAcm_disconnected hl ha, hb]; rfl

/-- A Control frame is queued with its source or dropped without regard to it (R222). -/
theorem onControl_source (f : Frame) (s : State) (addr : U32) (port : U16) :
    (onControl { f with addr := addr, port := port } s = onControl f s ∧ (onControl f s).dc.msgq = s.dc.msgq) ∨
    (onControl f s = { s with dc.msgq := s.dc.msgq ++ [f] } ∧
      onControl { f with addr := addr, port := port } s =
        { s with dc.msgq := s.dc.msgq ++ [{ f with addr := addr, port := port }] }) := by
  cases hc : s.dc.connected with
  | false =>
    left
    rw [onControl_not_connected hc, onControl_not_connected hc]
    exact ⟨rfl, rfl⟩
  | true =>
    by_cases hl : f.len.toNat < s.cfg.msgMin ∨ s.cfg.msgMax < f.len.toNat
    · left
      rw [onControl_bad_length hc hl, onControl_bad_length (f := { f with addr := addr, port := port }) hc hl]
      exact ⟨rfl, rfl⟩
    · by_cases hm : decU32 f.payload 0 = s.cfg.magic
      · exact .inr ⟨onControl_accepted hc hl hm, onControl_accepted hc hl hm⟩
      · left
        rw [onControl_bad_magic hc hl hm, onControl_bad_magic (f := { f with addr := addr, port := port }) hc hl hm]
        exact ⟨rfl, rfl⟩

theorem onConfig_msgq (f : Frame) (s : State) : (onConfig f s).dc.msgq = s.dc.msgq := by
  rcases onConfig_cases f s with ⟨d, h, -⟩ | ⟨-, -, h⟩ <;> simp [h]

theorem onAudio_msgq (f : Frame) (s : State) : (onAudio f s).dc.msgq = s.dc.msgq := by
  rcases onAudio_cases f s with ⟨-, h⟩ | ⟨-, -, h⟩ <;> simp [h]

theorem onAcm_msgq (f : Frame) (s : State) : (onAcm f s).dc.msgq = s.dc.msgq := by
  rcases onAcm_cases f s with ⟨d, h, -⟩ | ⟨-, -, -, h⟩ | ⟨-, -, -, h⟩ | ⟨-, -, -, h⟩ <;> simp [h]

/-- Settles O44: only the Control handler keeps the source, in the frame it queues. -/
theorem dispatchIgnoresTheSource : Obligations.DispatchIgnoresTheSource := by
  intro s t t' f addr port ht ht'
  rw [exec_dispatch] at ht ht'
  cases ht
  cases ht'
  obtain ⟨chan, len, addr₀, port₀, payload⟩ := f
  cases chan with
  | config => exact .inl ⟨rfl, onConfig_msgq _ s⟩
  | control =>
    simp only [dispatch]
    rcases onControl_source ⟨.control, len, addr₀, port₀, payload⟩ s addr port with hsame | ⟨hq, hq'⟩
    · exact .inl hsame
    · exact .inr ⟨trivial, by rw [hq], by rw [hq, hq']⟩
  | audio => exact .inl ⟨rfl, onAudio_msgq _ s⟩
  | acm => exact .inl ⟨rfl, onAcm_msgq _ s⟩

end Sys2Proof.Machine
end

section
/-! PROOFS. Inbound frames (R141, R143, R220 to R224): the next state of each, exactly. -/

namespace Sys2Proof.Machine

/-! ### The end of a frame -/

theorem frameStep_of {act : State → State} {s x : State} {flag : Bool} (hw : s.cfg.codes.Wf s.cfg.reqWidth)
    (h : act s.atFrame = x) (hc : x.cfg = s.cfg) (ha : x.attn = s.attn) (hflag : x.anyFlag = flag) :
    frameStep act s = { x with attn := s.attnAfter flag } := by
  rw [frameStep_eq, h, ← hflag]
  exact updateAttn_eq_attnAfter hc ha hw

/-- A frame that leaves the flags alone leaves the line alone (R246). -/
theorem frameStep_same {act : State → State} {s x : State} (hw : s.cfg.codes.Wf s.cfg.reqWidth) (hl : AttnLevel s)
    (h : act s.atFrame = x) (hc : x.cfg = s.cfg) (ha : x.attn = s.attn) (hflag : x.anyFlag = s.anyFlag) :
    frameStep act s = x := by
  rw [frameStep_of hw h hc ha hflag, State.attnAfter_same hl, ← ha]

/-- A frame that is only rejected. -/
theorem frameStep_raise {act : State → State} {s : State} {d : Diag} (hw : s.cfg.codes.Wf s.cfg.reqWidth)
    (hl : AttnLevel s) (h : act s.atFrame = s.atFrame.raise d) :
    frameStep act s = { s with fc := { acc := [], hdr := none }, out := Output.remote [d] } :=
  frameStep_same hw hl h rfl rfl rfl

/-- Settles O33: the three answers of the Config handler; the latch is no flag, so the line stays. -/
theorem configFrameSetsTheLatchOnce : Obligations.ConfigFrameSetsTheLatchOnce := by
  intro s addr port p hw hl hp
  have hzero := len_eq_zero_iff (receivedFrame_wf .config addr port hp)
  refine ⟨fun hne hc => congrArg Host.Outcome.next ?_, fun hne hc => congrArg Host.Outcome.next ?_,
    fun hnil => congrArg Host.Outcome.next ?_⟩
  · exact frameStep_same hw hl (onConfig_accepted (s := s.atFrame) (mt hzero.mp hne) hc) rfl rfl rfl
  · exact frameStep_raise hw hl (onConfig_repeated (s := s.atFrame) (mt hzero.mp hne) hc)
  · exact frameStep_raise hw hl (onConfig_empty (hzero.mpr hnil))

/-- With a message queued some flag is set (R38). -/
theorem anyFlag_of_queued {s : State} {q : List Frame} {f : Frame} (h : s.dc.msgq = q ++ [f]) : s.anyFlag = true := by
  simp [State.anyFlag, State.hasQueuedMessage, h]

/-- Settles O34: the four answers of the Control handler, in the order of its tests. -/
theorem controlFrameQueued : Obligations.ControlFrameQueued := by
  intro s addr port p hw hl hp
  have hlen : (receivedFrame .control addr port p).len.toNat = p.length := Nat.mod_eq_of_lt hp
  have hinside : s.cfg.msgMin ≤ p.length → p.length ≤ s.cfg.msgMax →
      ¬((receivedFrame .control addr port p).len.toNat < s.cfg.msgMin ∨
        s.cfg.msgMax < (receivedFrame .control addr port p).len.toNat) := by omega
  refine ⟨fun hc hlo hhi hm => congrArg Host.Outcome.next ?_, fun hc => congrArg Host.Outcome.next ?_,
    fun hc hbad => congrArg Host.Outcome.next ?_, fun hc hlo hhi hm => congrArg Host.Outcome.next ?_⟩
  · exact frameStep_of hw (onControl_accepted (s := s.atFrame) hc (hinside hlo hhi) hm) rfl rfl (anyFlag_of_queued rfl)
  · exact frameStep_raise hw hl (onControl_not_connected (s := s.atFrame) hc)
  · exact frameStep_raise hw hl (onControl_bad_length (s := s.atFrame) hc (by rw [hlen]; exact hbad))
  · exact frameStep_raise hw hl (onControl_bad_magic (s := s.atFrame) hc (hinside hlo hhi) hm)

/-- Settles O35: the two answers of the Audio handler. -/
theorem audioFrameBuffered : Obligations.AudioFrameBuffered := by
  refine fun s addr port p hw hl hp => ⟨fun hc ha => congrArg Host.Outcome.next ?_,
    fun h => congrArg Host.Outcome.next ?_⟩
  · exact frameStep_of hw (onAudio_accepted (s := s.atFrame) hc ha) rfl rfl
      (by rw [← List.length_append]; rfl)
  · exact frameStep_raise hw hl (onAudio_rejected (s := s.atFrame) h)

/-- With the error latch set some flag is set (R38). -/
theorem anyFlag_of_err {s : State} (h : s.dc.err = true) : s.anyFlag = true := by
  simp [State.anyFlag, h]

/-- Settles O36: the answers of the ACM handler; in Connecting its `UNBLOCK` completes the stalled transaction. -/
theorem acmFrameDrivesTheAudioState : Obligations.AcmFrameDrivesTheAudioState := by
  intro s addr port code p hw hl hp
  have hone : (receivedFrame .acm addr port [code]).len = 1 := rfl
  refine ⟨fun ha hs hcode => congrArg Host.Outcome.next ?_, fun ha hs hcode => congrArg Host.Outcome.next ?_,
    fun ha hcode => congrArg Host.Outcome.next ?_, fun ha hcode => congrArg Host.Outcome.next ?_,
    fun ha => congrArg Host.Outcome.next ?_, fun hlen => congrArg Host.Outcome.next ?_⟩
  · have hact := onAcm_connecting_zero (s := s.atFrame) hone ha hcode
    rw [unblock_stalled_dc (s := s.atFrame) hs] at hact
    exact frameStep_same hw hl hact rfl rfl rfl
  · have hact := onAcm_connecting_error (s := s.atFrame) hone ha hcode
    rw [unblock_stalled_dc (s := s.atFrame) hs] at hact
    exact frameStep_of hw hact rfl rfl (anyFlag_of_err rfl)
  · exact frameStep_of hw (onAcm_connected_error (s := s.atFrame) hone ha hcode) rfl rfl (anyFlag_of_err rfl)
  · exact frameStep_raise hw hl (onAcm_connected_zero (s := s.atFrame) hone ha hcode)
  · exact frameStep_raise hw hl (onAcm_disconnected (s := s.atFrame) hone ha)
  · have hbad := mt (len_eq_one_iff (receivedFrame_wf .acm addr port hp)).mp hlen
    exact frameStep_raise hw hl (onAcm_bad_length hbad)

/-- Settles O37: the drop, and the header that names it. -/
theorem undefinedChannelDropped : Obligations.UndefinedChannelDropped := by
  refine fun s ch addr port p hw hl =>
    ⟨congrArg Host.Outcome.next (frameStep_raise (act := dropFrame ch) hw hl rfl), ?_⟩
  rw [← channelDecode_eq_none_iff]
  unfold frameInstr
  cases hch : channelDecode s.cfg.codes ch with
  | none => simp
  | some c => cases c <;> simp

/-! ### Bytes of a frame -/

/-- A remote byte that completes no frame moves the codec alone (R141). -/
theorem exec_remoteByte_collect {s : State} {b : Byte} (hw : s.cfg.codes.Wf s.cfg.reqWidth) (hl : AttnLevel s)
    (hn : ∀ h, (codecNext s.fc b).hdr = some h → (codecNext s.fc b).acc.length ≠ h.len.toNat) :
    exec (.remoteByte b) s = .next { s with fc := codecNext s.fc b, out := Output.empty } := by
  rcases execRemoteByte_cases b s with ⟨h, -⟩ | ⟨h, hh, hlen, -⟩
  · rw [exec_remoteByte, h]
    exact congrArg Host.Outcome.next
      (updateAttn_same (s := s) (t := { s with fc := codecNext s.fc b, out := Output.empty }) rfl rfl rfl hw hl)
  · exact absurd hlen (hn h hh)

/-- A remote byte that completes a frame runs its operation (R141). -/
theorem exec_remoteByte_complete {s : State} {b : Byte} {h : Header} (hh : (codecNext s.fc b).hdr = some h)
    (hlen : (codecNext s.fc b).acc.length = h.len.toNat) :
    exec (.remoteByte b) s = exec (frameInstr s.cfg.codes h (codecNext s.fc b).acc) s := by
  rcases execRemoteByte_cases b s with ⟨-, hn⟩ | ⟨h', hh', -, hexec⟩
  · exact absurd hlen (hn h hh)
  · rw [hh] at hh'
    cases hh'
    rw [exec_remoteByte, hexec, exec_frameInstr]

theorem codecNext_header {fc : FrameCodec} (hh : fc.hdr = none) (hlen : fc.acc.length = 10) (b : Byte) :
    codecNext fc b = { acc := [], hdr := some (decodeHeader (fc.acc ++ [b])) } := by
  rcases codecNext_cases fc b with ⟨-, -, e⟩ | ⟨hn, -⟩
  · exact e
  · exact absurd ⟨hh, hlen⟩ hn

theorem codecNext_append {fc : FrameCodec} (hn : ¬(fc.hdr = none ∧ fc.acc.length = 10)) (b : Byte) :
    codecNext fc b = { acc := fc.acc ++ [b], hdr := fc.hdr } := by
  rcases codecNext_cases fc b with ⟨hh, hlen, -⟩ | ⟨-, e⟩
  · exact absurd ⟨hh, hlen⟩ hn
  · exact e

/-- A byte after which the codec is still within its phase joins the accumulator (R22, R141). -/
theorem exec_remoteByte_append {s : State} {b : Byte} (hw : s.cfg.codes.Wf s.cfg.reqWidth) (hl : AttnLevel s)
    (hok : FrameCodec.Ok { acc := s.fc.acc ++ [b], hdr := s.fc.hdr }) :
    exec (.remoteByte b) s = .next { s with fc.acc := s.fc.acc ++ [b], out := Output.empty } := by
  have hnext : codecNext s.fc b = { acc := s.fc.acc ++ [b], hdr := s.fc.hdr } := by
    refine codecNext_append ?_ b
    rintro ⟨hh, hlen⟩
    rw [hh] at hok
    simp [FrameCodec.Ok, hlen] at hok
  rw [exec_remoteByte_collect hw hl ?_, hnext]
  rw [hnext]
  intro h hh
  have hh : s.fc.hdr = some h := hh
  simp only [FrameCodec.Ok, hh] at hok
  exact Nat.ne_of_lt hok

/-- The eleventh byte of a frame with a payload leaves its header (R141). -/
theorem exec_remoteByte_header {s : State} {b : Byte} {h : Header} (hw : s.cfg.codes.Wf s.cfg.reqWidth)
    (hl : AttnLevel s) (hh : s.fc.hdr = none) (hlen : s.fc.acc.length = 10) (hb : s.fc.acc ++ [b] = encodeHeader h)
    (hne : h.len ≠ 0) :
    exec (.remoteByte b) s = .next { s with fc := { acc := [], hdr := some h }, out := Output.empty } := by
  have hdecode : decodeHeader (s.fc.acc ++ [b]) = h := by
    have := decodeHeader_encodeHeader h []
    rwa [List.append_nil, ← hb] at this
  have hnext := codecNext_header hh hlen b
  rw [hdecode] at hnext
  rw [exec_remoteByte_collect hw hl ?_, hnext]
  rw [hnext]
  rintro h' ⟨⟩ hzero
  exact hne (BitVec.eq_of_toNat_eq hzero.symm)

/-- Settles O31: the header decoded with its eleventh byte, and the accumulator grown otherwise. -/
theorem remoteByteCollects : Obligations.RemoteByteCollects := by
  refine fun s b hw hl => ⟨fun hh hlen => ?_, fun h hh hlen hb hne => exec_remoteByte_header hw hl hh hlen hb hne,
    fun h hh hlen => ?_⟩
  · exact exec_remoteByte_append hw hl (by simp [FrameCodec.Ok, hh]; omega)
  · exact exec_remoteByte_append hw hl (by simpa [FrameCodec.Ok, hh] using hlen)

/-- Settles O12: the byte is the last of the header of an empty frame or the last of a payload. -/
theorem stepRunsDecodedFrame : Obligations.StepRunsDecodedFrame := by
  intro s b es i l hi hok hphase hdec
  obtain ⟨hle, rfl, hrest⟩ := decodeFrame_eq_instr.mp hdec
  have hlen : (l ++ [b]).length = 11 + (decodeHeader (l ++ [b])).len.toNat :=
    Nat.le_antisymm (List.drop_eq_nil_iff.mp hrest.symm) hle
  rw [step_event hi]
  rcases hphase with ⟨hh, rfl⟩ | ⟨h, hh, rfl⟩
  · simp only [FrameCodec.Ok, hh] at hok
    have hzero : (decodeHeader (s.fc.acc ++ [b])).len.toNat = 0 := by simp at hlen; omega
    have hten : s.fc.acc.length = 10 := by simp at hlen; omega
    have hnext := codecNext_header hh hten b
    refine (exec_remoteByte_complete (s := { s with input := es }) (h := decodeHeader (s.fc.acc ++ [b])) ?_ ?_).trans ?_
    · rw [hnext]
    · rw [hnext]; exact hzero.symm
    · rw [hnext, hzero]; rfl
  · have hhdr : decodeHeader (encodeHeader h ++ s.fc.acc ++ [b]) = h := by
      rw [List.append_assoc]; exact decodeHeader_encodeHeader h _
    have hdrop : (encodeHeader h ++ s.fc.acc ++ [b]).drop 11 = s.fc.acc ++ [b] := by
      rw [List.append_assoc, List.drop_left' (encodeHeader_length h)]
    have hnext := codecNext_append (fc := s.fc) (by simp [hh]) b
    rw [hhdr] at hlen ⊢
    have hsum : (s.fc.acc ++ [b]).length = h.len.toNat := by simp at hlen ⊢; omega
    refine (exec_remoteByte_complete (s := { s with input := es }) (h := h) ?_ ?_).trans ?_
    · rw [hnext]; exact hh
    · rw [hnext]; exact hsum
    · rw [hnext, hdrop, ← hsum, List.take_length]

end Sys2Proof.Machine
end

section
/-! PROOFS. No handler looks at the inbound codec or at the events still to come (R76, R144): each gives the same result
whatever the two are. -/

namespace Sys2Proof.Machine

/-- The state with another codec state and other events to come. -/
def State.reframe (fc : FrameCodec) (es : List Event) (s : State) : State := { s with fc := fc, input := es }

theorem acceptRead_reframe (fc : FrameCodec) (es : List Event) (r : Reg) (s : State) :
    acceptRead r (s.reframe fc es) = ((acceptRead r s).1.reframe fc es, (acceptRead r s).2) := by
  cases r with
  | status | audioSource | audioBlockSize => rfl
  | message =>
    cases h : s.dc.msgq with
    | nil => rw [acceptRead_message_empty h, acceptRead_message_empty (s := s.reframe fc es) h]; rfl
    | cons f rest => rw [acceptRead_message h, acceptRead_message (s := s.reframe fc es) h]; rfl
  | audioData =>
    rcases Nat.lt_or_ge s.dc.abuf.length s.dc.block.toNat with h | h
    · rw [acceptRead_audioData_short h, acceptRead_audioData_short (s := s.reframe fc es) h]; rfl
    · have hsplit := (List.take_append_drop s.dc.block.toNat s.dc.abuf).symm
      rw [acceptRead_audioData hsplit (List.length_take_of_le h),
        acceptRead_audioData (s := s.reframe fc es) hsplit (List.length_take_of_le h)]
      rfl

theorem acceptWrite_reframe (fc : FrameCodec) (es : List Event) (r : Reg) (s : State) :
    acceptWrite r (s.reframe fc es) = ((acceptWrite r s).1.reframe fc es, (acceptWrite r s).2) := by
  cases r <;> rfl

theorem requestAct_reframe (fc : FrameCodec) (es : List Event) (d : Dir) (a : RegAddr) (reg : Option Reg) (s : State) :
    requestAct d a reg (s.reframe fc es) = ((requestAct d a reg s).1.reframe fc es, (requestAct d a reg s).2) := by
  cases reg with
  | none => rfl
  | some r =>
    cases d with
    | read => exact acceptRead_reframe fc es r s
    | write => exact acceptWrite_reframe fc es r s

theorem regWrite_reframe (fc : FrameCodec) (es : List Event) (r : Reg) (buf : List Byte) (s : State) :
    regWrite r buf (s.reframe fc es) = ((regWrite r buf s).1, (regWrite r buf s).2.reframe fc es) := by
  cases r with
  | status | audioData => rfl
  | message =>
    cases hc : s.dc.connected with
    | false =>
      rw [regWrite, regWrite, messageWrite_of_not_connected hc, messageWrite_of_not_connected (s := s.reframe fc es) hc]
    | true =>
      rw [regWrite, regWrite, messageWrite_of_connected hc, messageWrite_of_connected (s := s.reframe fc es) hc]
      rfl
  | audioSource =>
    simp only [regWrite, audioSourceWrite]
    cases (decodeSource buf).isDisconnect with
    | false => rfl
    | true =>
      by_cases ha : s.dc.audio = .disconnected
      · simp only [if_true, if_pos ha, if_pos (show (s.reframe fc es).dc.audio = .disconnected from ha)]
      · simp only [if_true, if_neg ha, if_neg (show (s.reframe fc es).dc.audio ≠ .disconnected from ha)]
        rfl
  | audioBlockSize =>
    rw [regWrite, regWrite]
    by_cases hbad : decU32 buf 0 = 0 ∨ 0xFFFFFFFC < (decU32 buf 0).toNat
    · rw [blockSizeWrite_bad hbad, blockSizeWrite_bad hbad]; rfl
    · obtain ⟨h0, hle⟩ := not_or.mp hbad
      have hle := Nat.not_lt.mp hle
      have hn : (BitVec.ofNat 32 (roundup4 (decU32 buf 0).toNat)).toNat = roundup4 (decU32 buf 0).toNat :=
        Nat.mod_eq_of_lt (roundup4_lt hle)
      rw [blockSizeWrite_ok h0 hle hn, blockSizeWrite_ok h0 hle hn]; rfl

theorem finishWrite_reframe (fc : FrameCodec) (es : List Event) (x : Bool × State) :
    finishWrite (x.1, x.2.reframe fc es) = (finishWrite x).reframe fc es := by
  obtain ⟨done, s⟩ := x
  cases done <;> rfl

theorem dataAct_reframe (fc : FrameCodec) (es : List Event) (b : Byte) (s : State) :
    dataAct b (s.reframe fc es) = (dataAct b s).reframe fc es := by
  cases hd : s.te.dir with
  | read =>
    rcases Nat.lt_or_ge 1 s.te.remaining with hr | hr
    · rw [dataAct_read_more hd hr, dataAct_read_more (s := s.reframe fc es) hd hr]; rfl
    · rw [dataAct_read_last hd hr, dataAct_read_last (s := s.reframe fc es) hd hr]; rfl
  | write =>
    rcases Nat.lt_or_ge 1 s.te.remaining with hr | hr
    · rw [dataAct_write_more hd hr, dataAct_write_more (s := s.reframe fc es) hd hr]; rfl
    · rw [dataAct_write_last hd hr, dataAct_write_last (s := s.reframe fc es) hd hr, ← finishWrite_reframe,
        ← regWrite_reframe]
      rfl

theorem hostAct_reframe (fc : FrameCodec) (es : List Event) (b : Byte) (s : State) :
    hostAct b (s.reframe fc es) = ((hostAct b s).1.reframe fc es, (hostAct b s).2) := by
  cases hs : s.te.stage with
  | awaitingRequest =>
    rcases Nat.lt_or_ge (s.te.req.length + 1) s.cfg.reqWidth.bytes with hlen | hlen
    · rw [hostAct_partial hs hlen, hostAct_partial (s := s.reframe fc es) hs hlen]; rfl
    · rw [hostAct_complete hs hlen, hostAct_complete (s := s.reframe fc es) hs hlen, ← requestAct_reframe]; rfl
  | awaitingData => rw [hostAct_data hs, hostAct_data (s := s.reframe fc es) hs, dataAct_reframe]
  | stalled => rw [hostAct_stalled hs, hostAct_stalled (s := s.reframe fc es) hs]; rfl

/-- Settles O56: the act commutes with a change of the codec, and `UpdateAttn` looks at neither. -/
theorem hostBytesIndependentOfCodec : Obligations.HostBytesIndependentOfCodec := by
  intro s t b fc hexec
  rw [exec_hostByte, execHostByte_eq] at hexec
  cases hexec
  refine ⟨(hostAct_outcome b s).frame.fc, ?_⟩
  have hact := hostAct_reframe fc s.input b s
  have hinput := (hostAct_outcome b s).frame.input
  show execHostByte b (s.reframe fc s.input) = _
  rw [execHostByte_eq, hact, ← hinput]
  rfl

theorem unblock_reframe (fc : FrameCodec) (es : List Event) (s : State) :
    unblock (s.reframe fc es) = (unblock s).reframe fc es := by
  by_cases h : s.te.stage = .stalled
  · rw [unblock_of_stalled h, unblock_of_stalled (s := s.reframe fc es) h]; rfl
  · rw [unblock_of_not_stalled h, unblock_of_not_stalled (s := s.reframe fc es) h]; rfl

theorem onConfig_reframe (fc : FrameCodec) (es : List Event) (f : Frame) (s : State) :
    onConfig f (s.reframe fc es) = (onConfig f s).reframe fc es := by
  by_cases hl : f.len = 0
  · rw [onConfig_empty hl, onConfig_empty hl]; rfl
  · cases hc : s.dc.connected with
    | false => rw [onConfig_accepted hl hc, onConfig_accepted (s := s.reframe fc es) hl hc]; rfl
    | true => rw [onConfig_repeated hl hc, onConfig_repeated (s := s.reframe fc es) hl hc]; rfl

theorem onControl_reframe (fc : FrameCodec) (es : List Event) (f : Frame) (s : State) :
    onControl f (s.reframe fc es) = (onControl f s).reframe fc es := by
  cases hc : s.dc.connected with
  | false => rw [onControl_not_connected hc, onControl_not_connected (s := s.reframe fc es) hc]; rfl
  | true =>
    by_cases hl : f.len.toNat < s.cfg.msgMin ∨ s.cfg.msgMax < f.len.toNat
    · rw [onControl_bad_length hc hl, onControl_bad_length (s := s.reframe fc es) hc hl]; rfl
    · by_cases hm : decU32 f.payload 0 = s.cfg.magic
      · rw [onControl_accepted hc hl hm, onControl_accepted (s := s.reframe fc es) hc hl hm]; rfl
      · rw [onControl_bad_magic hc hl hm, onControl_bad_magic (s := s.reframe fc es) hc hl hm]; rfl

theorem onAudio_reframe (fc : FrameCodec) (es : List Event) (f : Frame) (s : State) :
    onAudio f (s.reframe fc es) = (onAudio f s).reframe fc es := by
  by_cases h : s.dc.connected = true ∧ s.dc.audio = .connected
  · rw [onAudio_accepted h.1 h.2, onAudio_accepted (s := s.reframe fc es) h.1 h.2]; rfl
  · have h : s.dc.connected = false ∨ s.dc.audio ≠ .connected := by
      rw [← Bool.not_eq_true]; exact not_and_or.mp h
    rw [onAudio_rejected h, onAudio_rejected (s := s.reframe fc es) h]; rfl

theorem onAcm_reframe (fc : FrameCodec) (es : List Event) (f : Frame) (s : State) :
    onAcm f (s.reframe fc es) = (onAcm f s).reframe fc es := by
  by_cases hl : f.len = 1
  · cases ha : s.dc.audio with
    | disconnected => rw [onAcm_disconnected hl ha, onAcm_disconnected (s := s.reframe fc es) hl ha]; rfl
    | connecting =>
      rw [onAcm_connecting hl ha, onAcm_connecting (s := s.reframe fc es) hl ha]
      exact unblock_reframe fc es { s with dc := _ }
    | connected =>
      by_cases hb : byteAt f.payload 0 = 0
      · rw [onAcm_connected_zero hl ha hb, onAcm_connected_zero (s := s.reframe fc es) hl ha hb]; rfl
      · rw [onAcm_connected_error hl ha hb, onAcm_connected_error (s := s.reframe fc es) hl ha hb]; rfl
  · rw [onAcm_bad_length hl, onAcm_bad_length hl]; rfl

theorem dispatch_reframe (fc : FrameCodec) (es : List Event) (f : Frame) (s : State) :
    dispatch f (s.reframe fc es) = (dispatch f s).reframe fc es := by
  unfold dispatch
  cases f.chan with
  | config => exact onConfig_reframe fc es f s
  | control => exact onControl_reframe fc es f s
  | audio => exact onAudio_reframe fc es f s
  | acm => exact onAcm_reframe fc es f s

theorem frameAct_reframe (c : Codes) (h : Header) (p : List Byte) (fc : FrameCodec) (es : List Event) (s : State) :
    frameAct c h p (s.reframe fc es) = (frameAct c h p s).reframe fc es := by
  rcases frameAct_cases c h p with ⟨ch, -, e⟩ | ⟨-, e⟩ <;> rw [e]
  · exact dispatch_reframe fc es _ s
  · rfl

end Sys2Proof.Machine
end

section
/-! PROOFS. Runs of host events: the data phases, a request byte by byte, and traffic during a stall (R162, R166,
R167). -/

namespace Sys2Proof.Machine

/-- A run whose first event and whose remainder are known. -/
theorem runSteps_cons (s : State) (e : Event) (es : List Event) {t u : State} {n : Nat} {outs : List Output}
    (hstep : exec (eventInstr e) { s with input := es } = .next t) (hrun : runSteps n t = some (outs, u)) :
    runSteps (n + 1) { s with input := e :: es } = some (t.out :: outs, u) := by
  rw [runSteps_succ ((step_event (s := { s with input := e :: es }) rfl).trans hstep) n, hrun]
  rfl

/-- Settles O28, by induction on the host's bytes: each takes the front of the staged bytes, the last one completes. -/
theorem readDataPhaseReturnsStagedBytes : Obligations.ReadDataPhaseReturnsStagedBytes := by
  intro s bs es hw hl hs hd hlen hpos hbs
  induction bs generalizing s with
  | nil => simp at hbs; omega
  | cons b bs ih =>
    obtain ⟨hmore, hlast, -⟩ := dataBytesMoveTheBuffer { s with input := bs.map .hostByte ++ es } b hw hl hs
    obtain ⟨x, xs, hbuf⟩ : ∃ x xs, s.te.buf = x :: xs := List.exists_cons_of_length_pos (by omega)
    have hxs : xs.length + 1 = s.te.remaining := by rw [← hlen, hbuf]; rfl
    cases bs with
    | nil =>
      have hr : s.te.remaining = 1 := hbs.symm
      have hnil : xs = [] := List.eq_nil_of_length_eq_zero (by omega)
      rw [hbuf, hnil]
      exact ⟨_, runSteps_cons s (.hostByte b) es (hlast x xs hd hbuf hr) rfl, rfl⟩
    | cons b' bs =>
      have hr : s.te.remaining = bs.length + 2 := hbs.symm
      obtain ⟨t, hrun, ht⟩ := ih
        { s with te.buf := xs, te.remaining := bs.length + 1, out := Output.host x [] [] } hw hl hs hd
        (show xs.length = bs.length + 1 by omega) (Nat.le_add_left 1 _) rfl
      refine ⟨t, ?_, ht⟩
      rw [hbuf]
      exact runSteps_cons s (.hostByte b) _ (hmore x xs bs.length hd hbuf hr) hrun

/-- Settles O29, by induction on the host's bytes: each joins the end of the buffer. -/
theorem writeDataPhaseGathersBytes : Obligations.WriteDataPhaseGathersBytes := by
  intro s bs es hw hl hs hd hr
  induction bs generalizing s with
  | nil =>
    refine ⟨{ s with te.buf := s.te.buf ++ [], te.remaining := 1, input := es }, ?_, rfl⟩
    rw [List.append_nil, ← show s.te.remaining = 1 from hr]
    rfl
  | cons b bs ih =>
    obtain ⟨-, -, hwrite⟩ := dataBytesMoveTheBuffer { s with input := bs.map .hostByte ++ es } b hw hl hs
    obtain ⟨t, hrun, ht⟩ := ih
      { s with te.buf := s.te.buf ++ [b], te.remaining := bs.length + 1, out := Output.host s.cfg.codes.filler [] [] }
      hw hl hs hd rfl
    refine ⟨t, runSteps_cons s (.hostByte b) _ (hwrite bs.length hd hr) hrun, ?_⟩
    rw [List.append_assoc, List.singleton_append] at ht
    exact ht

/-- Bytes that leave the request word incomplete are kept in order, each answered `FILLER` (R162). -/
theorem runSteps_partialRequest {s : State} (q : List Byte) (es : List Event) (hw : s.cfg.codes.Wf s.cfg.reqWidth)
    (hl : AttnLevel s) (hs : s.te.stage = .awaitingRequest)
    (hlen : s.te.req.length + q.length < s.cfg.reqWidth.bytes) :
    ∃ t, runSteps q.length { s with input := q.map .hostByte ++ es }
        = some (List.replicate q.length (Output.host s.cfg.codes.filler [] []), t) ∧
      t = { s with te.req := s.te.req ++ q, out := t.out, input := es } := by
  induction q generalizing s with
  | nil =>
    refine ⟨{ s with te.req := s.te.req ++ [], input := es }, ?_, rfl⟩
    rw [List.append_nil]
    rfl
  | cons b q ih =>
    have hstep := partialRequestAccumulates { s with input := q.map .hostByte ++ es } b hw hl hs
      (by simp at hlen ⊢; omega)
    obtain ⟨t, hrun, ht⟩ := ih
      (s := { s with te.req := s.te.req ++ [b], out := Output.host s.cfg.codes.filler [] [] }) hw hl hs
      (by simp at hlen ⊢; omega)
    refine ⟨t, runSteps_cons s (.hostByte b) _ hstep hrun, ?_⟩
    rw [List.append_assoc, List.singleton_append] at ht
    exact ht

/-- A run of one step. -/
theorem runSteps_one {s t : State} (h : step s = .next t) : runSteps 1 s = some ([t.out], t) := by
  rw [runSteps_succ h 0]
  rfl

/-- Settles O30: the bytes before the last are kept, and the last completes the word the decoder reads. -/
theorem requestBytesRunTheRequest : Obligations.RequestBytesRunTheRequest := by
  intro s i es hw hl hs hreq hwf hlink
  obtain ⟨d, a, ha, rfl⟩ := request_of_link hw hwf hlink
  refine ⟨_, exec_requestInstr _ _ _ _ _, ?_⟩
  rw [encode_requestInstr]
  have hdecode := decodeRequest_encodeRequest s.cfg.codes d ha []
  have hlen := encodeRequest_length s.cfg.reqWidth d a
  rcases List.eq_nil_or_concat (encodeRequest s.cfg.reqWidth d a) with hnil | ⟨q, b, hqb⟩
  · have hpos := reqWidth_bytes_pos s.cfg.reqWidth
    rw [← hlen, hnil] at hpos
    exact absurd hpos (Nat.lt_irrefl 0)
  · rw [List.concat_eq_append] at hqb
    rw [List.append_nil, hqb] at hdecode
    rw [hqb, List.length_append, List.length_singleton] at hlen
    obtain ⟨u, hrun, hu⟩ := runSteps_partialRequest q (.hostByte b :: es) hw hl hs (by rw [hreq, ← hlen]; simp)
    rw [hreq, List.nil_append] at hu
    have hstep := stepRunsDecodedRequest u b es _ [] (by rw [hu]) (by rw [hu]; exact hs) (by rw [hu]; exact hdecode)
    rw [exec_requestInstr, hu] at hstep
    rw [hqb, ← hlen, List.map_append, List.append_assoc]
    refine (runSteps_add hrun 1).trans ?_
    rw [hu, runSteps_one hstep]
    rfl

/-- Settles O58, by induction on the events: a byte is rejected, a finish does nothing. -/
theorem stallOutlastsHostTraffic : Obligations.StallOutlastsHostTraffic := by
  intro s es rest hw hl hs hhost
  induction es generalizing s with
  | nil => exact ⟨[], _, rfl, rfl, by simp⟩
  | cons e es ih =>
    obtain ⟨o, hstep, htx⟩ : ∃ o, exec (eventInstr e) { s with input := es ++ rest } =
        .next { s with out := o, input := es ++ rest } ∧ o.tx = [] := by
      cases e with
      | hostByte b => exact ⟨_, stalledByteRejected { s with input := es ++ rest } b hw hl hs, rfl⟩
      | hostFinish => exact ⟨_, rfl, rfl⟩
      | remoteByte b => exact absurd (hhost _ (List.mem_cons_self)) (by simp [Event.isHost])
      | reset => exact absurd (hhost _ (List.mem_cons_self)) (by simp [Event.isHost])
    obtain ⟨outs, t, hrun, ht, htxs⟩ := ih { s with out := o } hw hl hs
      fun e he => hhost e (List.mem_cons_of_mem _ he)
    refine ⟨o :: outs, t, runSteps_cons s e _ hstep hrun, ht, ?_⟩
    simpa [htx] using htxs

end Sys2Proof.Machine
end

section
/-! PROOFS. Runs of remote bytes (R140 to R142): the codec holds the bytes of the frame so far, and the last byte of
each frame runs it. -/

namespace Sys2Proof.Machine

/-! ### The bytes the codec holds -/

/-- `l` is what has come of the frame in the codec: header bytes, or the header and payload bytes (R22, R141). -/
def FrameCodec.Holds (fc : FrameCodec) (l : List Byte) : Prop :=
  fc.hdr = none ∧ l = fc.acc ∨ ∃ h, fc.hdr = some h ∧ l = encodeHeader h ++ fc.acc

/-- The bytes `l` are no complete frame (R141). -/
def Incomplete (l : List Byte) : Prop := l.length < 11 + (decodeHeader l).len.toNat

/-- A part of a frame's bytes is no complete frame: either the header is not all there, or its length is not. -/
theorem incomplete_of_encodeFrame {ch : Byte} {addr : U32} {port : U16} {p l r : List Byte} (hp : p.length < 2 ^ 32)
    (h : l ++ r = encodeFrame ch addr port p) (hr : r ≠ []) : Incomplete l := by
  unfold Incomplete
  have hlen := congrArg List.length h
  rw [List.length_append, encodeFrame_length] at hlen
  have hpos := List.length_pos_iff.mpr hr
  rcases Nat.lt_or_ge l.length 11 with h11 | h11
  · omega
  · have hhdr : decodeHeader l = headerOf ch addr port p := by
      rw [← decodeHeader_append_left h11 r, h, encodeFrame]
      exact decodeHeader_encodeHeader _ p
    have hdeclared : (decodeHeader l).len.toNat = p.length := by
      rw [hhdr]; exact Nat.mod_eq_of_lt hp
    omega

/-- A byte that leaves the frame incomplete completes nothing, and the codec holds it (R141). -/
theorem codecNext_holds {fc : FrameCodec} {l : List Byte} {b : Byte} (hl : fc.Holds l) (hinc : Incomplete (l ++ [b])) :
    (∀ h, (codecNext fc b).hdr = some h → (codecNext fc b).acc.length ≠ h.len.toNat) ∧
    (codecNext fc b).Holds (l ++ [b]) := by
  unfold Incomplete at hinc
  rcases codecNext_cases fc b with ⟨hnone, hten, e⟩ | ⟨-, e⟩ <;> rw [e]
  · obtain ⟨-, rfl⟩ | ⟨h, hsome, -⟩ := hl
    · have h11 : (fc.acc ++ [b]).length = 11 := by simp [hten]
      refine ⟨?_, .inr ⟨_, rfl, ?_⟩⟩
      · rintro h ⟨⟩ hzero
        rw [h11] at hinc
        simp only [List.length_nil] at hzero
        omega
      · rw [encodeHeader_decodeHeader h11.ge, List.take_of_length_le h11.le, List.append_nil]
    · simp [hnone] at hsome
  · obtain ⟨hnone, rfl⟩ | ⟨h, hsome, rfl⟩ := hl
    · exact ⟨by simp [hnone], .inl ⟨hnone, rfl⟩⟩
    · rw [List.append_assoc, decodeHeader_encodeHeader, List.length_append, encodeHeader_length] at hinc
      refine ⟨?_, .inr ⟨h, hsome, List.append_assoc _ _ _⟩⟩
      intro h' hh'
      rw [hsome] at hh'
      cases hh'
      exact Nat.ne_of_lt (by simpa using hinc)

/-! ### One frame -/

/-- The bytes of a frame before the last one only move the codec, which holds them in the end. -/
theorem runSteps_incomplete {s : State} {ch : Byte} {addr : U32} {port : U16} {p l r : List Byte} (q : List Byte)
    (es : List Event) (hw : s.cfg.codes.Wf s.cfg.reqWidth) (hl : AttnLevel s) (hok : s.fc.Ok) (hh : s.fc.Holds l)
    (hp : p.length < 2 ^ 32) (hbytes : l ++ q ++ r = encodeFrame ch addr port p) (hr : r ≠ []) :
    ∃ u, runSteps q.length { s with input := q.map .remoteByte ++ es }
        = some (List.replicate q.length Output.empty, u) ∧
      u = { s with fc := u.fc, out := u.out, input := es } ∧ u.fc.Ok ∧ u.fc.Holds (l ++ q) := by
  induction q generalizing s l with
  | nil => exact ⟨_, rfl, rfl, hok, by rwa [List.append_nil]⟩
  | cons b q ih =>
    have hinc : Incomplete (l ++ [b]) :=
      incomplete_of_encodeFrame (r := q ++ r) hp (by simpa using hbytes) (by simp [hr])
    obtain ⟨hn, hholds⟩ := codecNext_holds hh hinc
    have hstep := exec_remoteByte_collect (s := { s with input := q.map .remoteByte ++ es }) hw hl hn
    obtain ⟨u, hrun, hu, huok, huholds⟩ := ih (s := { s with fc := codecNext s.fc b, out := Output.empty })
      (l := l ++ [b]) hw hl (codecNext_ok hok hn) hholds (by simpa using hbytes)
    exact ⟨u, runSteps_cons s (.remoteByte b) _ hstep hrun, hu, huok, by simpa using huholds⟩

/-- The bytes of a frame run its act with the last of them. -/
theorem runSteps_frame {s : State} (ch : Byte) (addr : U32) (port : U16) {p : List Byte} (es : List Event)
    (hw : s.cfg.codes.Wf s.cfg.reqWidth) (hl : AttnLevel s) (hb : s.fc.atBoundary) (hp : p.length < 2 ^ 32) :
    ∃ t, t = frameStep (frameAct s.cfg.codes (headerOf ch addr port p) p) { s with input := es } ∧
      runSteps (encodeFrame ch addr port p).length
          { s with input := (encodeFrame ch addr port p).map .remoteByte ++ es }
        = some (List.replicate ((encodeFrame ch addr port p).length - 1) Output.empty ++ [t.out], t) := by
  refine ⟨_, rfl, ?_⟩
  have hdecode := decodeFrame_encodeFrame s.cfg.codes ch addr port hp []
  rcases List.eq_nil_or_concat (encodeFrame ch addr port p) with hnil | ⟨q, b, hqb⟩
  · have hlen := encodeFrame_length ch addr port p
    rw [hnil, List.length_nil] at hlen
    omega
  · rw [List.concat_eq_append] at hqb
    obtain ⟨u, hrun, hu, huok, huholds⟩ := runSteps_incomplete (l := []) (r := [b]) q (.remoteByte b :: es) hw hl
      (by rw [hb]; exact Nat.zero_le 10) (by rw [hb]; exact .inl ⟨rfl, rfl⟩) hp hqb.symm (by simp)
    rw [List.append_nil, hqb] at hdecode
    have hstep := stepRunsDecodedFrame u b es _ q (by rw [hu]) huok huholds (by rw [hu]; exact hdecode)
    have hexec : exec (frameInstr s.cfg.codes (headerOf ch addr port p) p) { u with input := es } =
        .next (frameStep (frameAct s.cfg.codes (headerOf ch addr port p) p) { s with input := es }) := by
      rw [hu]
      exact exec_frameInstr _ _ { s with fc := u.fc, out := u.out, input := es }
    rw [hqb, List.length_append, List.map_append, List.append_assoc]
    refine (runSteps_add hrun 1).trans ?_
    rw [runSteps_one (hstep.trans hexec)]
    rfl

/-! ### A stream of frames -/

theorem frameAct_frame (c : Codes) (h : Header) (p : List Byte) (s : State) :
    (frameAct c h p s).cfg = s.cfg ∧ (frameAct c h p s).fc = s.fc ∧ (frameAct c h p s).input = s.input := by
  rcases frameAct_cases c h p with ⟨ch, -, e⟩ | ⟨-, e⟩ <;> rw [e]
  · obtain ⟨hfc, -, hinput, -⟩ := dispatch_frame (receivedFrame ch h.addr h.port p) s
    exact ⟨dispatch_cfg _ s, hfc, hinput⟩
  · exact ⟨rfl, rfl, rfl⟩

/-- The step of a frame keeps what the next frame of a stream needs. -/
theorem frameStep_frame (c : Codes) (h : Header) (p : List Byte) {s : State} (hw : s.cfg.codes.Wf s.cfg.reqWidth) :
    (frameStep (frameAct c h p) s).cfg = s.cfg ∧ (frameStep (frameAct c h p) s).fc.atBoundary ∧
    (frameStep (frameAct c h p) s).input = s.input ∧ AttnLevel (frameStep (frameAct c h p) s) := by
  obtain ⟨hcfg, hfc, hinput⟩ := frameAct_frame c h p s.atFrame
  rw [frameStep_eq]
  exact ⟨hcfg, hfc, hinput, updateAttn_level s.flags false (by rw [hcfg]; exact hw)⟩

/-- The step of a frame does not look at the events to come. -/
theorem frameStep_input (c : Codes) (h : Header) (p : List Byte) (s : State) (es : List Event) :
    frameStep (frameAct c h p) { s with input := es } = { frameStep (frameAct c h p) s with input := es } := by
  obtain ⟨-, hfc, -⟩ := frameAct_frame c h p s.atFrame
  have hact : frameAct c h p ({ s with input := es } : State).atFrame =
      { frameAct c h p s.atFrame with input := es } :=
    (frameAct_reframe c h p s.atFrame.fc es s.atFrame).trans (by rw [State.reframe, ← hfc])
  rw [frameStep_eq, frameStep_eq, hact]
  rfl

/-- Settles O32, by induction on the frames: each runs with its last byte and leaves the codec at a boundary. -/
theorem frameStreamRoundTrip : Obligations.FrameStreamRoundTrip := by
  intro s fs es hw hl hb hfs
  induction fs generalizing s with
  | nil => exact ⟨[], _, rfl, hb, rfl⟩
  | cons i fs ih =>
    obtain ⟨hwf, hlink⟩ := hfs i List.mem_cons_self
    obtain ⟨ch, addr, port, p, hp, rfl⟩ := frame_of_link hw hwf hlink
    have henc : encode s.cfg.codes (frameInstr s.cfg.codes (headerOf ch addr port p) p) = encodeFrame ch addr port p :=
      encode_frameInstr _ _ _
    obtain ⟨hcfg, hbound, hinput, hlevel⟩ :=
      frameStep_frame s.cfg.codes (headerOf ch addr port p) p (s := { s with input := es }) hw
    generalize hu : frameStep (frameAct s.cfg.codes (headerOf ch addr port p) p) { s with input := es } = u at *
    have hcfg : u.cfg = s.cfg := hcfg
    have hinput : u.input = es := hinput
    obtain ⟨outs, t, hall, htb, hrun⟩ := ih u (by rw [hcfg]; exact hw) hlevel hbound
      (by rw [hcfg]; exact fun j hj => hfs j (List.mem_cons_of_mem _ hj))
    refine ⟨u.out :: outs, t, ?_, htb, ?_⟩
    · have hexec := exec_frameInstr (headerOf ch addr port p) p { s with input := es }
      rw [hu] at hexec
      rw [← hinput] at hall
      simp only [execAll, hexec]
      rw [hall]
      rfl
    · rw [show encode u.cfg.codes = encode s.cfg.codes by rw [hcfg]] at hrun
      obtain ⟨v, hv, hframe⟩ := runSteps_frame ch addr port
        ((fs.flatMap (encode s.cfg.codes)).map .remoteByte ++ es) hw hl hb hp
      have hvu : v = { u with input := (fs.flatMap (encode s.cfg.codes)).map .remoteByte ++ es } := by
        rw [hv, ← hu]
        exact frameStep_input _ _ _ { s with input := es } _
      rw [List.flatMap_cons, henc, List.length_append, List.map_append, List.append_assoc]
      refine (runSteps_add hframe _).trans ?_
      rw [hvu, hrun, List.zip_cons_cons, List.flatMap_cons, henc]
      rfl

end Sys2Proof.Machine
end
